-- ==== Sys2Proof/Word.lean ====
section
/-! DEFINITION. The word and byte types of the block (spec/00_scope.md R7, R8): every accumulator, constant, register
and result is 64-bit unsigned, an IBUF byte is 8-bit unsigned. `+`, `-`, `*` on `BitVec 64` are the wrapping
arithmetic of R9 and R143; `^^^` is XOR, `>>>` the zero-filling right shift, `<<<` the truncating left shift. -/

namespace Sys2Proof

/-- A 64-bit unsigned word (R7, parameter W). -/
abbrev Word := BitVec 64

/-- An IBUF byte, unsigned 8-bit (R40). -/
abbrev Byte := BitVec 8

/-- The first length outside the range `L ∈ [0, 2^63)` (R7, R36). -/
def lenLimit : Nat := 9223372036854775808

end Sys2Proof
end

