-- ==== Sys2Proof/Syntax.lean ====
section
/-! DEFINITION. The command set: one constructor for each row of spec/opcode_table.json (30_encoding.md R57). The
operands of a command are the latched registers (R58), so only ROTR carries one: its immediate SHAMT (R59). -/

namespace Sys2Proof

/-- A decoded command (R57). -/
inductive Instr where
  /-- HASH64, the whole hash (R108). -/
  | hash64
  /-- HASH_0TO16, bucket 0 to 16 alone (R88). -/
  | hash0to16
  /-- HASH_17TO32, bucket 17 to 32 alone (R89). -/
  | hash17to32
  /-- HASH_33TO64, bucket 33 to 64 alone (R90). -/
  | hash33to64
  /-- HASH_LONG, the long route alone (R104). -/
  | hashLong
  /-- CLASSIFY, the route code of LEN (R107). -/
  | classify
  /-- RD8, a byte of IBUF (R69). -/
  | rd8
  /-- RD32, a 4-byte word of IBUF (R70). -/
  | rd32
  /-- RD64, an 8-byte word of IBUF (R71). -/
  | rd64
  /-- ROTR #s, rotate OPA right by s (R73). -/
  | rotr (shamt : Nat)
  /-- SHIFTMIX (R75). -/
  | shiftmix
  /-- COMBINE (R77). -/
  | combine
  /-- WEAKHASH, the word form (R93). -/
  | weakhash
  /-- WEAKHASH_WIN, the window form (R94). -/
  | weakhashWin
deriving DecidableEq, Repr

end Sys2Proof
end

