-- ==== Sys2Proof/WellFormed.lean ====
section
/-! DEFINITION. Which commands an encoding exists for: SHAMT is a 6-bit field, so a rotation amount is 0 to 63
(30_encoding.md R59: "no encoding can ask for a rotation of 64 or more"). Every other command has no immediate. -/

namespace Sys2Proof

/-- The command can be encoded (R59). -/
def Instr.wellFormed : Instr → Bool
  | .hash64 => true
  | .hash0to16 => true
  | .hash17to32 => true
  | .hash33to64 => true
  | .hashLong => true
  | .classify => true
  | .rd8 => true
  | .rd32 => true
  | .rd64 => true
  | .rotr shamt => decide (shamt ≤ 63)
  | .shiftmix => true
  | .combine => true
  | .weakhash => true
  | .weakhashWin => true

end Sys2Proof
end

