-- ==== Sys2Proof/Decode.lean ====
section
/-! DEFINITION. The command format CMD64, the decoder and the encoder (30_encoding.md R56 to R63). A command is one
64-bit register write, so it has no byte order (R42, R56; log 12): the decoder takes the word. -/

namespace Sys2Proof

/-- What decoding a command word answers (R62): a command, or one of the two rejections by name. -/
inductive Decoded where
  | command (i : Instr)
  | illegalOp
  | illegalCmd
deriving DecidableEq, Repr

/-- The field OP, bits [7:0] (R56). -/
def cmdOp (w : Word) : BitVec 8 := w.extractLsb' 0 8

/-- The field SHAMT, bits [13:8] (R56). -/
def cmdShamt (w : Word) : BitVec 6 := w.extractLsb' 8 6

/-- The field RSVD, bits [63:14] (R56). -/
def cmdRsvd (w : Word) : BitVec 50 := w.extractLsb' 14 50

/-- The opcode map (R57); `none` is an unassigned OP (R61). `shamt` is used by ROTR only (R59). -/
def selectOp (op shamt : Nat) : Option Instr :=
  match op with
  | 0x01 => some .hash64
  | 0x02 => some .hash0to16
  | 0x03 => some .hash17to32
  | 0x04 => some .hash33to64
  | 0x05 => some .hashLong
  | 0x06 => some .classify
  | 0x10 => some .rd8
  | 0x11 => some .rd32
  | 0x12 => some .rd64
  | 0x20 => some (.rotr shamt)
  | 0x21 => some .shiftmix
  | 0x22 => some .combine
  | 0x30 => some .weakhash
  | 0x31 => some .weakhashWin
  | _ => none

/-- Decoding, total, in the order of tests of R62. -/
def decode (w : Word) : Decoded :=
  match selectOp (cmdOp w).toNat (cmdShamt w).toNat with
  | none => .illegalOp
  | some i =>
    if cmdRsvd w ≠ 0 then .illegalCmd
    else if cmdOp w ≠ 0x20 ∧ cmdShamt w ≠ 0 then .illegalCmd
    else .command i

/-- The OP code of a command (R57). -/
def opcode : Instr → Nat
  | .hash64 => 0x01
  | .hash0to16 => 0x02
  | .hash17to32 => 0x03
  | .hash33to64 => 0x04
  | .hashLong => 0x05
  | .classify => 0x06
  | .rd8 => 0x10
  | .rd32 => 0x11
  | .rd64 => 0x12
  | .rotr _ => 0x20
  | .shiftmix => 0x21
  | .combine => 0x22
  | .weakhash => 0x30
  | .weakhashWin => 0x31

/-- The SHAMT field of a command: 0 but for ROTR (R59, R60). -/
def shamtField : Instr → Nat
  | .hash64 => 0
  | .hash0to16 => 0
  | .hash17to32 => 0
  | .hash33to64 => 0
  | .hashLong => 0
  | .classify => 0
  | .rd8 => 0
  | .rd32 => 0
  | .rd64 => 0
  | .rotr shamt => shamt
  | .shiftmix => 0
  | .combine => 0
  | .weakhash => 0
  | .weakhashWin => 0

/-- The command word of a well-formed command (R63): `OP | (SHAMT << 8)`, RSVD = 0. Of an
ill-formed term it is no encoding (log 29). -/
def encode (i : Instr) : Word :=
  BitVec.ofNat 64 (opcode i) ||| (BitVec.ofNat 64 (shamtField i) <<< 8)

/-- The command the decoder reads from the table's bits `w`, those above `nbits` being 0. -/
def decodeTableWord (nbits w : Nat) : Option Instr :=
  match decode (BitVec.ofNat 64 (w % 2 ^ nbits)) with
  | .command i => some i
  | .illegalOp => none
  | .illegalCmd => none

end Sys2Proof
end

