-- ==== Sys2Proof/Machine/HostSyntax.lean ====
section
/-! DEFINITION. The host statements of 30_encoding.md R64, as data. A statement of R64 names a register; here it
names a window offset and a width, so that the accesses R43 and R124 exclude can be written too. Labels and host
variables are numbers. A host program as it is written may also hold the pseudo-statements of R65 (`HostLine`); the
host runs its expansion (`expandProgram` in Machine/HostProgram.lean). -/

namespace Sys2Proof.Machine

/-- A host variable (R64). -/
abbrev HostVar := Nat

/-- A label (R64). -/
abbrev HostLabel := Nat

/-- The value a host write sends: a literal, or a host variable (95_test_vectors.md P3, `W OPA, t`). R64 gives no grammar
for a `W` statement's `<value>`. DESIGN CHOICE (log 27): one of these two, the whole variable, with no field of one such
as `t.CAUSE` and no expression. -/
inductive HostValue where
  | lit (v : Word)
  | var (t : HostVar)
deriving DecidableEq, Repr

/-- A condition of a host branch (R64): `t.BUSY` is `t[0]`, `t.DONE` is `t[1]`, `t.FAULT` is `t[2]`, `t.CAUSE` is
`t[11:8]`. R64 gives no grammar for `<cond>`. DESIGN CHOICE (log 27): one of these five on one variable, with no
comparison of two variables and none by order. -/
inductive HostCond where
  | busy (t : HostVar)
  | done (t : HostVar)
  | fault (t : HostVar)
  | causeIs (t : HostVar) (code : BitVec 4)
  | equals (t : HostVar) (v : Word)
deriving DecidableEq, Repr

/-- A host statement (R64). -/
inductive HostStmt where
  /-- `W`: a host write of `width` bits at window offset `off`. -/
  | write (off width : Nat) (v : HostValue)
  /-- `R`: a host read of `width` bits at window offset `off` into the variable `t`. -/
  | read (off width : Nat) (t : HostVar)
  /-- `IBUF`: the host places bytes at IBUF offsets `off`, `off + 1`, … (R64 has `off = 0`; log 14). -/
  | place (off : Nat) (bytes : List Byte)
  /-- `<label>:` marks a point. -/
  | label (l : HostLabel)
  /-- `IF <cond> GOTO <label>`. -/
  | ifGoto (c : HostCond) (l : HostLabel)
  /-- `GOTO <label>`. -/
  | goto (l : HostLabel)
  /-- `CHECK <t> == <value>`, an assertion and not an action (log 10). R64 does not say what
  `<value>` may be. DESIGN CHOICE (log 27): a literal. -/
  | check (t : HostVar) (v : Word)
deriving DecidableEq, Repr

/-- A line of a host program: a statement of R64 or a pseudo-statement of R65. -/
inductive HostLine where
  /-- A statement of R64. -/
  | stmt (st : HostStmt)
  /-- `WAIT`. -/
  | wait
  /-- `DO <command>`. -/
  | command (i : Instr)
  /-- `HASH <hex bytes>`. -/
  | hash (bytes : List Byte)
  /-- `CLRF`. -/
  | clrf
  /-- `CLRD`. -/
  | clrd
deriving DecidableEq, Repr

end Sys2Proof.Machine
end

