-- ==== Sys2Proof/Config.lean ====
section
/-! DEFINITION. The parameters of 00_scope.md R7 that a result depends on: the constants record K and LOOP_ADDR.
Both are FIELDS of `State` that no step writes (log 4, log 5), so a statement about every state holds for every K and
for either LOOP_ADDR. LAT is the list of turns in `State` (log 6, log 21); N_INST is one (log 20). -/

namespace Sys2Proof

/-- How the long route's loop addresses IBUF (R7, R97). Open in the source; `fixed` is the document's text. -/
inductive LoopAddr where
  | fixed
  | advancing
deriving DecidableEq, Repr

/-- The constants ROM without k2 (R13, R14): the four constants the source does not give. k2 is the source's literal,
`Constants.k2` in Machine/Rom.lean. -/
structure Constants where
  k0 : Word
  k1 : Word
  k3 : Word
  kMul : Word
deriving DecidableEq, Repr

end Sys2Proof
end

