-- ==== Sys2Proof/Machine/Rom.lean ====
section
/-! DEFINITION. The values of the constants ROM (10_state.md R13) and the default of LOOP_ADDR (00_scope.md R7). -/

namespace Sys2Proof

/-- k2, the one constant the source gives (R13: "`hash64([])` returns exactly the constant `k2`"). It is the same for
every K. -/
def Constants.k2 (_ : Constants) : Word := 0x9ae16a3b2f90404f

namespace Machine

/-- The defaults of R13 for k0, k1, k3 and kMul. PRESUMED (log 4): the spec marks them "[from general knowledge, not
in source]". -/
def defaultConstants : Constants :=
  { k0 := 0xc3a5c85c97cb3127, k1 := 0xb492b66fbe98f273, k3 := 0xc949d7c7509e6557, kMul := 0x9ddfea08eb382d69 }

/-- The default of LOOP_ADDR, the document's text (R7, R97). DESIGN CHOICE (log 5). -/
def defaultLoopAddr : LoopAddr := .fixed

end Machine
end Sys2Proof
end

