-- ==== Sys2Proof/Machine/State.lean ====
section
/-! DEFINITION. The state of the block and of the agents around it, its reset value, and the reasons a step can stop
(spec/10_state.md). Plain data throughout. -/

namespace Sys2Proof.Machine

/-- IBUF as (offset, byte) cells in canonical form (Machine/Ops.lean `Memory.wf`). -/
abbrev Memory := List Host.Cell

/-- STATUS.CAUSE (R17, R116): the five fault causes and "no fault". Codes 6 to 15 are "never produced" (I18). -/
inductive Cause where
  | noFault
  | illegalOp
  | illegalCmd
  | lenRange
  | bucketRange
  | readOob
deriving DecidableEq, Repr

/-- STATUS (R17) by its fields; the reserved bits are hardwired 0 and not stored (log 17). -/
structure Status where
  busy : Bool
  done : Bool
  fault : Bool
  cause : Cause
deriving DecidableEq, Repr

/-- The six operand registers OPA to OPF (R22), and their latched copies (R25). -/
structure Operands where
  opa : Word
  opb : Word
  opc : Word
  opd : Word
  ope : Word
  opf : Word
deriving DecidableEq, Repr

/-- PHASE (R26). -/
inductive Phase where
  | idle
  | run
deriving DecidableEq, Repr

/-- The working registers of the long route (R27). -/
structure LongRegs where
  x : Word
  y : Word
  z : Word
  v0 : Word
  v1 : Word
  w0 : Word
  w1 : Word
  iter : Word
  idx : Word
deriving DecidableEq, Repr

/-- `Fault(cause, info)` as `raise` names it (R10, R116). -/
structure Raised where
  cause : Cause
  info : Word
deriving DecidableEq, Repr

/-- How an operation ended (R146): completed with its results, or in a fault. -/
inductive EndOutcome where
  | completed (result resultHi : Word)
  | faulted (cause : Cause) (info : Word)
deriving DecidableEq, Repr

/-- One end step in the run's record (R122, R146): the command word and how it ended. -/
structure EndRecord where
  cmd : Word
  outcome : EndOutcome
deriving DecidableEq, Repr

/-- An agent that can move (R12, R133). -/
inductive Agent where
  | block
  | host
  | platform
deriving DecidableEq, Repr

/-- The host: its program, the position of its next statement, and its variables (R64; log 9). -/
structure HostAgent where
  program : List HostStmt
  pos : Nat
  vars : List (HostVar × Word)
deriving DecidableEq, Repr

/-- The whole state. The comments give each field's rule; INVENTORY.md lists them with their reset values. -/
structure State where
  /-- STATUS (R17). -/
  status : Status
  /-- LEN (R18). -/
  len : Word
  /-- FAULT_INFO (R19). -/
  faultInfo : Word
  /-- RESULT (R20). -/
  result : Word
  /-- RESULT_HI (R21). -/
  resultHi : Word
  /-- OPA to OPF (R22). -/
  ops : Operands
  /-- PHASE (R26). -/
  phase : Phase
  /-- CMD_q, the latched command word (R25). -/
  cmdQ : Word
  /-- L_q, the latched length (R25). -/
  lenQ : Word
  /-- OPA_q to OPF_q, the latched operands (R25). -/
  opsQ : Operands
  /-- X, Y, Z, V0, V1, W0, W1, ITER, IDX (R27). -/
  long : LongRegs
  /-- CONFIG.LOOP_ADDR, hardwired (R23; log 5). -/
  loopAddr : LoopAddr
  /-- The constants ROM (R13; log 4). -/
  rom : Constants
  /-- IBUF, the host's bytes (R36). -/
  ibuf : Memory
  /-- The host (R64; log 9). -/
  host : HostAgent
  /-- Which agents move next, first to last (R144; log 6). -/
  turns : List Agent
  /-- Every end step so far, first to last (R122, R146; log 11). -/
  record : List EndRecord
deriving DecidableEq, Repr

/-- Why the machine stops. A fault of the block (R116) is none of these: it is a next state (R119). -/
inductive Fault where
  /-- A host access at a window offset of 0x100 or above. Raised by `hostRead` and `hostWrite`; "Offsets at or above
  0x100 are outside the block" (R24; log 13). Safe. -/
  | outsideWindow
  /-- The host places a byte at an IBUF offset of 2^63 or above, which does not exist (R36). Raised by `hostPlace`
  (log 14). Safe. -/
  | outsideIbuf
deriving DecidableEq, Repr

/-- Why a step is given no meaning. -/
inductive Refusal where
  /-- An instruction that has no meaning yet: `exec`'s arm raises it. No arm does. Safe. -/
  | notModelled (mnemonic : String)
  /-- A rotation by 64 or more, which no encoding can ask for; raised by `execRotr` on an ill-formed term (R142, I6:
  "it refuses rather than picks a value"; log 18). Safe. -/
  | rotateAmount
  /-- A host access of the window that is not 64 bits wide; raised by `hostRead` and `hostWrite` (R43, R124). Safe. -/
  | accessWidth
  /-- A host access of the window at an offset that is no multiple of 8; raised by `hostRead` and `hostWrite` (R43,
  R124). Safe. -/
  | accessUnaligned
  /-- The host changes an IBUF byte below L_q while BUSY = 1; raised by `hostPlace` (R38, R124; log 15). Safe. -/
  | ibufChangedWhileBusy
  /-- A host statement reads a host variable that no R statement has set; raised by `hostStep` (log 9). Safe. -/
  | hostVariableUnset
  /-- A host branch goes to a label the program does not mark; raised by `hostStep` (log 9). Safe. -/
  | hostLabelMissing
deriving DecidableEq, Repr

/-- All six operand registers 0. -/
def Operands.zero : Operands := { opa := 0, opb := 0, opc := 0, opd := 0, ope := 0, opf := 0 }

/-- All nine working registers 0. DESIGN CHOICE (log 3): R34 leaves them unspecified. -/
def LongRegs.zero : LongRegs :=
  { x := 0, y := 0, z := 0, v0 := 0, v1 := 0, w0 := 0, w1 := 0, iter := 0, idx := 0 }

/-- STATUS with every field 0. -/
def Status.zero : Status := { busy := false, done := false, fault := false, cause := .noFault }

/-- The block right after reset (R34), the instance with the default K and LOOP_ADDR (R7; log 4, log 5), an empty
IBUF (log 1), no host program (log 7, log 9), no turns given (log 6) and no end step recorded (log 11). The latched
registers are unspecified in R34; 0 is a DESIGN CHOICE (log 2). -/
def State.reset : State :=
  { status := Status.zero
    len := 0
    faultInfo := 0
    result := 0
    resultHi := 0
    ops := Operands.zero
    phase := .idle
    cmdQ := 0
    lenQ := 0
    opsQ := Operands.zero
    long := LongRegs.zero
    loopAddr := defaultLoopAddr
    rom := defaultConstants
    ibuf := []
    host := { program := [], pos := 0, vars := [] }
    turns := []
    record := [] }

end Sys2Proof.Machine
end

