-- ==== Sys2Proof/Machine/Flags.lean ====
section
/-! DEFINITION. STATUS: the word the host reads, and every way its fields change (10_state.md R17, 43 R109 and R110,
60 R119 and R121). The block has no other flags (R31). -/

namespace Sys2Proof.Machine

/-- The 4-bit code of a cause (R116). -/
def Cause.code : Cause → BitVec 4
  | .noFault => 0
  | .illegalOp => 1
  | .illegalCmd => 2
  | .lenRange => 3
  | .bucketRange => 4
  | .readOob => 5

/-- A flag as a bit of a word. -/
def flagBit (b : Bool) (n : Nat) : Word := if b then (1 : Word) <<< n else 0

/-- STATUS as the host reads it (R17): BUSY [0], DONE [1], FAULT [2], CAUSE [11:8], every other bit 0. -/
def Status.word (st : Status) : Word :=
  flagBit st.busy 0 ||| flagBit st.done 1 ||| flagBit st.fault 2 ||| (st.cause.code.setWidth 64 <<< 8)

/-- STATUS at issue (R109): DONE, FAULT and CAUSE cleared, BUSY set. -/
def Status.onIssue (_ : Status) : Status := { busy := true, done := false, fault := false, cause := .noFault }

/-- STATUS at completion (R110): BUSY cleared, DONE set; FAULT and CAUSE are not named there and stay (log 16). -/
def Status.onCompletion (st : Status) : Status := { st with busy := false, done := true }

/-- STATUS at fault entry (R119). -/
def Status.onFault (_ : Status) (c : Cause) : Status := { busy := false, done := false, fault := true, cause := c }

/-- STATUS after DONE is cleared by a host write of 1 to bit 1 (R17). -/
def Status.clearDone (st : Status) : Status := { st with done := false }

/-- STATUS after FAULT is cleared by a host write of 1 to bit 2, which also sets CAUSE to 0 (R17, R121). -/
def Status.clearFault (st : Status) : Status := { st with fault := false, cause := .noFault }

end Sys2Proof.Machine
end

