-- ==== Sys2Proof/Machine/Ops.lean ====
section
/-! DEFINITION. The operations every meaning shares: IBUF reads and writes (20_memory.md), the issue of a command, its
completion, FAULT ENTRY and fault exit (43 R109, R110; 60 R119, R121), and reset (70 R133). -/

namespace Sys2Proof.Machine

/-! ### IBUF -/

/-- What an IBUF byte that nothing has placed reads as. DESIGN CHOICE (log 1): R34 says only "whatever the host holds
there". -/
def unplacedByte : Byte := 0

/-- The byte at an IBUF offset. -/
def Memory.read (m : Memory) (off : Nat) : Byte :=
  match m with
  | [] => unplacedByte
  | (k, b) :: rest => if off = k then b else Memory.read rest off

/-- The cell list with one byte placed, kept canonical. -/
def Memory.write (m : Memory) (off : Nat) (b : Byte) : Memory :=
  match m with
  | [] => if b = unplacedByte then [] else [(off, b)]
  | (k, v) :: rest =>
    if off < k then (if b = unplacedByte then (k, v) :: rest else (off, b) :: (k, v) :: rest)
    else if off = k then (if b = unplacedByte then rest else (off, b) :: rest)
    else (k, v) :: Memory.write rest off b

/-- The canonical form: offsets strictly rising and below 2^63 (R36), no cell equal to what an unlisted offset reads
as. -/
def Memory.wf : Memory → Bool
  | [] => true
  | (k, v) :: rest =>
    decide (k < lenLimit) && decide (v ≠ unplacedByte) && rest.all (fun c => decide (k < c.1)) && Memory.wf rest

/-- The host's bytes placed at `off`, `off + 1`, … (R64, R147). -/
def placeBytes (m : Memory) (off : Nat) : List Byte → Memory
  | [] => m
  | b :: rest => placeBytes (Memory.write m off b) (off + 1) rest

/-- Some placed byte below `limit` differs from what IBUF holds there (R38; log 15). -/
def changesBelow (m : Memory) (limit off : Nat) : List Byte → Bool
  | [] => false
  | b :: rest => (decide (off < limit) && decide (Memory.read m off ≠ b)) || changesBelow m limit (off + 1) rest

/-- `MemRead(off, n)` (R41): the sum over i below n of `zext_64(IBUF[off + i]) << (8*i)`. -/
def memRead (m : Memory) (off : Nat) : Nat → Word
  | 0 => 0
  | n + 1 => memRead m off n + ((Memory.read m (off + n)).setWidth 64 <<< (8 * n))

/-- `rd8(off)` (R66). -/
def rd8 (m : Memory) (off : Nat) : Word := memRead m off 1

/-- `rd32(off)` (R67). -/
def rd32 (m : Memory) (off : Nat) : Word := memRead m off 4

/-- `rd64(off)` (R68). -/
def rd64 (m : Memory) (off : Nat) : Word := memRead m off 8

/-! ### Issue, completion, fault entry, fault exit, reset -/

/-- Issue (R109): STATUS and FAULT_INFO cleared, the command word and every operand latched, BUSY set, PHASE RUN. -/
def issue (s : State) (cmd : Word) : State :=
  { s with
    status := s.status.onIssue
    faultInfo := 0
    phase := .run
    cmdQ := cmd
    lenQ := s.len
    opsQ := s.ops }

/-- Completion (R110): the results, BUSY 0, DONE 1, PHASE IDLE. -/
def complete (s : State) (result resultHi : Word) : State :=
  { s with
    status := s.status.onCompletion
    result := result
    resultHi := resultHi
    phase := .idle }

/-- FAULT ENTRY (R119), the one shared operation: BUSY 0, DONE 0, FAULT 1, CAUSE, FAULT_INFO, PHASE IDLE; "No other
state changes". -/
def faultEntry (s : State) (c : Cause) (info : Word) : State :=
  { s with
    status := s.status.onFault c
    faultInfo := info
    phase := .idle }

/-- Fault exit by the host (R121, R17): FAULT 0, CAUSE 0, FAULT_INFO 0. The other exit is `issue`. -/
def faultExit (s : State) : State := { s with status := s.status.clearFault, faultInfo := 0 }

/-- DONE cleared by the host (R17). -/
def doneClear (s : State) : State := { s with status := s.status.clearDone }

/-- The end of an operation (R110): fault entry if a check raised, otherwise `done`. -/
def endOp (s : State) (raised : Option Raised) (done : State → State) : Host.Outcome State Fault Refusal :=
  match raised with
  | some r => .next (faultEntry s r.cause r.info)
  | none => .next (done s)

/-- Reset by the platform (R133, R134, R34). IBUF, ROM and CONFIG are untouched, and so are the host, the turns and the
record, which are not the block's (log 23). The registers R34 leaves unspecified become 0, as in `State.reset`. -/
def platformReset (s : State) : State :=
  { s with
    status := Status.zero
    len := 0
    faultInfo := 0
    result := 0
    resultHi := 0
    ops := Operands.zero
    phase := .idle
    cmdQ := 0
    lenQ := 0
    opsQ := Operands.zero
    long := LongRegs.zero }

end Sys2Proof.Machine
end

