-- ==== Sys2Proof/Machine/Operands.lean ====
section
/-! DEFINITION. How an operation gets its operands (30_encoding.md R58): always from the latched copies (R25), and the
checks it makes on them, in the order of 60_exceptions.md R118. All checks are on natural numbers (R9, D28). -/

namespace Sys2Proof.Machine

/-- `L` of the pseudocode: L_q as a natural number (R25; 40_primitives.md: "`L` is `L_q`"). -/
def inputLen (s : State) : Nat := s.lenQ.toNat

/-- `off` of RD8, RD32, RD64 and WEAKHASH_WIN: OPA_q as a natural number (R58). -/
def readOffset (s : State) : Nat := s.opsQ.opa.toNat

/-- LEN_RANGE (R116): L_q ≥ 2^63, with FAULT_INFO = L_q. -/
def lenCheck (s : State) : Option Raised :=
  if lenLimit ≤ inputLen s then some { cause := .lenRange, info := s.lenQ } else none

/-- BUCKET_RANGE (R116): L_q outside the bucket of the routine run alone, with FAULT_INFO = L_q. -/
def bucketCheck (s : State) (inBucket : Bool) : Option Raised :=
  if inBucket then none else some { cause := .bucketRange, info := s.lenQ }

/-- READ_OOB (R116): off + n > L_q in ℕ, with FAULT_INFO = off. -/
def readCheck (s : State) (n : Nat) : Option Raised :=
  if inputLen s < readOffset s + n then some { cause := .readOob, info := s.opsQ.opa } else none

/-- The first check that raises, in the order given (R118: "exactly one: the first in the order"). -/
def firstRaised : List (Option Raised) → Option Raised
  | [] => none
  | some r :: _ => some r
  | none :: rest => firstRaised rest

end Sys2Proof.Machine
end

