-- ==== Sys2Proof/Machine/Dispatcher.lean ====
section
/-! DEFINITION. The length_dispatcher's route code and CLASSIFY (43_dispatch_control.md R105, R107). HASH64 is in
Machine/HashAll.lean, after the routes it calls. -/

namespace Sys2Proof.Machine

/-- `route(L)` (R105). -/
def route (L : Nat) : Nat :=
  if L = 0 then 0
  else if L ≤ 3 then 1
  else if L ≤ 8 then 2
  else if L ≤ 16 then 3
  else if L ≤ 32 then 4
  else if L ≤ 64 then 5
  else 6

/-- The route code as a register value. -/
def routeWord (L : Nat) : Word := BitVec.ofNat 64 (route L)

/-- CLASSIFY (R107). -/
def execClassify (s : State) : Host.Outcome State Fault Refusal :=
  endOp s (firstRaised [lenCheck s]) fun s => complete s (routeWord (inputLen s)) 0

end Sys2Proof.Machine
end

