-- ==== Sys2Proof/Machine/Primitives.lean ====
section
/-! DEFINITION. The four primitive sub-blocks and the six operations that expose them (40_primitives.md R66 to R77). -/

namespace Sys2Proof.Machine

/-- `rotr(v, s)` for 0 ≤ s ≤ 63 (R72); a rotation by 0 is special-cased (R141). It is never applied with s ≥ 64
(R142). -/
def rotr (v : Word) (s : Nat) : Word :=
  if s = 0 then v else (v >>> s) ||| (v <<< (64 - s))

/-- `shift_mix(v) = v ^ (v >> 47)` (R74). -/
def shiftMix (v : Word) : Word := v ^^^ (v >>> 47)

/-- `combine(u, v)` (R76). -/
def combine (K : Constants) (u v : Word) : Word :=
  let a := (u ^^^ v) * K.kMul
  let a := a ^^^ (a >>> 47)
  let b := (v ^^^ a) * K.kMul
  let b := b ^^^ (b >>> 47)
  b * K.kMul

/-- RD8 (R69). -/
def execRd8 (s : State) : Host.Outcome State Fault Refusal :=
  endOp s (firstRaised [lenCheck s, readCheck s 1]) fun s => complete s (rd8 s.ibuf (readOffset s)) 0

/-- RD32 (R70). -/
def execRd32 (s : State) : Host.Outcome State Fault Refusal :=
  endOp s (firstRaised [lenCheck s, readCheck s 4]) fun s => complete s (rd32 s.ibuf (readOffset s)) 0

/-- RD64 (R71). -/
def execRd64 (s : State) : Host.Outcome State Fault Refusal :=
  endOp s (firstRaised [lenCheck s, readCheck s 8]) fun s => complete s (rd64 s.ibuf (readOffset s)) 0

/-- ROTR (R73). An amount of 64 or more has no encoding and is refused (I6; log 18). -/
def execRotr (shamt : Nat) (s : State) : Host.Outcome State Fault Refusal :=
  if shamt ≤ 63 then endOp s none fun s => complete s (rotr s.opsQ.opa shamt) 0 else .refused .rotateAmount

/-- SHIFTMIX (R75). -/
def execShiftmix (s : State) : Host.Outcome State Fault Refusal :=
  endOp s none fun s => complete s (shiftMix s.opsQ.opa) 0

/-- COMBINE (R77). -/
def execCombine (s : State) : Host.Outcome State Fault Refusal :=
  endOp s none fun s => complete s (combine s.rom s.opsQ.opa s.opsQ.opb) 0

end Sys2Proof.Machine
end

