-- ==== Sys2Proof/Machine/ShortRoutes.lean ====
section
/-! DEFINITION. The three bucket routines for L ≤ 64 and the operations that run them alone (41_short_routes.md R78 to
R90). `L` in a 64-bit expression is `zext_64(L)`; offsets are natural numbers (log 19). -/

namespace Sys2Proof.Machine

/-- `zext_64(L)`. -/
def lenWord (L : Nat) : Word := BitVec.ofNat 64 L

/-- Route 1 ≤ L ≤ 3 (R79); y and z are formed in 32 bits and widened. -/
def hash1to3 (K : Constants) (m : Memory) (L : Nat) : Word :=
  let a := rd8 m 0
  let b := rd8 m (L >>> 1)
  let c := rd8 m (L - 1)
  let y : BitVec 32 := a.setWidth 32 + (b.setWidth 32 <<< 8)
  let z : BitVec 32 := (lenWord L).setWidth 32 + (c.setWidth 32 <<< 2)
  shiftMix ((y.setWidth 64 * K.k2) ^^^ (z.setWidth 64 * K.k3)) * K.k2

/-- Route 4 ≤ L ≤ 8 (R80; 90_conflicts.md C1 for L = 8). -/
def hash4to8 (K : Constants) (m : Memory) (L : Nat) : Word :=
  let a := rd32 m 0
  combine K (lenWord L + (a <<< 3)) (rd32 m (L - 4))

/-- Route 9 ≤ L ≤ 16 (R81). -/
def hash9to16 (K : Constants) (m : Memory) (L : Nat) : Word :=
  let a := rd64 m 0
  let b := rd64 m (L - 8)
  combine K a (rotr (b + lenWord L) L) ^^^ b

/-- `hash_0to16(L)` (R82; R78 for L = 0). -/
def hash0to16 (K : Constants) (m : Memory) (L : Nat) : Word :=
  if L > 8 then hash9to16 K m L
  else if L ≥ 4 then hash4to8 K m L
  else if L > 0 then hash1to3 K m L
  else K.k2

/-- `hash_17to32(L)` (R83). -/
def hash17to32 (K : Constants) (m : Memory) (L : Nat) : Word :=
  let a := rd64 m 0 * K.k1
  let b := rd64 m 8
  let c := rd64 m (L - 8) * K.k2
  let d := rd64 m (L - 16) * K.k0
  combine K (rotr (a - b) 43 + rotr c 30 + d) (a + rotr (b ^^^ K.k3) 20 - c + lenWord L)

/-- The front triple of `hash_33to64(L)`: (vf, vs) (R84). -/
def frontTriple (K : Constants) (m : Memory) (L : Nat) : Word × Word :=
  let z := rd64 m 24
  let a := rd64 m 0 + (lenWord L + rd64 m (L - 16)) * K.k0
  let b := rotr (a + z) 52
  let c := rotr a 37
  let a := a + rd64 m 8
  let c := c + rotr a 7
  let a := a + rd64 m 16
  (a + z, b + rotr a 31 + c)

/-- The back triple of `hash_33to64(L)`: (wf, ws) (R85). -/
def backTriple (m : Memory) (L : Nat) : Word × Word :=
  let a := rd64 m 16 + rd64 m (L - 32)
  let z := rd64 m (L - 8)
  let b := rotr (a + z) 52
  let c := rotr a 37
  let a := a + rd64 m (L - 24)
  let c := c + rotr a 7
  let a := a + rd64 m (L - 16)
  (a + z, b + rotr a 31 + c)

/-- `hash_33to64(L)` (R84, R85, R86). -/
def hash33to64 (K : Constants) (m : Memory) (L : Nat) : Word :=
  let v := frontTriple K m L
  let w := backTriple m L
  let r := shiftMix ((v.1 + w.2) * K.k2 + (w.1 + v.2) * K.k0)
  shiftMix (r * K.k0 + v.2) * K.k2

/-- HASH_0TO16 (R88). -/
def execHash0to16 (s : State) : Host.Outcome State Fault Refusal :=
  endOp s (firstRaised [lenCheck s, bucketCheck s (decide (inputLen s ≤ 16))])
    fun s => complete s (hash0to16 s.rom s.ibuf (inputLen s)) (routeWord (inputLen s))

/-- HASH_17TO32 (R89). -/
def execHash17to32 (s : State) : Host.Outcome State Fault Refusal :=
  endOp s (firstRaised [lenCheck s, bucketCheck s (decide (17 ≤ inputLen s ∧ inputLen s ≤ 32))])
    fun s => complete s (hash17to32 s.rom s.ibuf (inputLen s)) 4

/-- HASH_33TO64 (R90). -/
def execHash33to64 (s : State) : Host.Outcome State Fault Refusal :=
  endOp s (firstRaised [lenCheck s, bucketCheck s (decide (33 ≤ inputLen s ∧ inputLen s ≤ 64))])
    fun s => complete s (hash33to64 s.rom s.ibuf (inputLen s)) 5

end Sys2Proof.Machine
end

