-- ==== Sys2Proof/Machine/WeakHash.lean ====
section
/-! DEFINITION. The weak_hash_roller and its two operations (42_weak_hash_long.md R91 to R94). -/

namespace Sys2Proof.Machine

/-- `weak_hash(w, x, y, z, seed_a, seed_b)` (R91). -/
def weakHash (w x y z seedA seedB : Word) : Word × Word :=
  let a := seedA + w
  let b := rotr (seedB + a + z) 21
  let c := a
  let a := a + x
  let a := a + y
  let b := b + rotr a 44
  (a + z, b + c)

/-- `weak_hash_window(off, seed_a, seed_b)` (R92). -/
def weakHashWindow (m : Memory) (off : Nat) (seedA seedB : Word) : Word × Word :=
  weakHash (rd64 m off) (rd64 m (off + 8)) (rd64 m (off + 16)) (rd64 m (off + 24)) seedA seedB

/-- WEAKHASH (R93). -/
def execWeakhash (s : State) : Host.Outcome State Fault Refusal :=
  endOp s none fun s =>
    let r := weakHash s.opsQ.opa s.opsQ.opb s.opsQ.opc s.opsQ.opd s.opsQ.ope s.opsQ.opf
    complete s r.1 r.2

/-- WEAKHASH_WIN (R94). -/
def execWeakhashWin (s : State) : Host.Outcome State Fault Refusal :=
  endOp s (firstRaised [lenCheck s, readCheck s 32]) fun s =>
    let r := weakHashWindow s.ibuf (readOffset s) s.opsQ.opb s.opsQ.opc
    complete s r.1 r.2

end Sys2Proof.Machine
end

