-- ==== Sys2Proof/Machine/LongRoute.lean ====
section
/-! DEFINITION. The long-input route over its working registers, and HASH_LONG (42_weak_hash_long.md R95 to R104). -/

namespace Sys2Proof.Machine

/-- Initialisation (R95), with ITER and IDX as R96 and R99 start them. -/
def longInit (K : Constants) (m : Memory) (L : Nat) : LongRegs :=
  let x := rd64 m 0
  let y := rd64 m (L - 16) ^^^ K.k1
  let z := rd64 m (L - 56) ^^^ K.k0
  let v := weakHashWindow m (L - 64) (lenWord L) y
  let w := weakHashWindow m (L - 32) (lenWord L * K.k1) K.k0
  let z := z + shiftMix v.2 * K.k1
  let x := rotr (z + x) 39 * K.k1
  let y := rotr y 33 * K.k1
  { x := x, y := y, z := z, v0 := v.1, v1 := v.2, w0 := w.1, w1 := w.2
    iter := BitVec.ofNat 64 ((L - 1) / 64), idx := 0 }

/-- `base(i)` (R97). The step of 64 of ADVANCING is R97's own, which the spec marks "[from
general knowledge, not in source]": UNVERIFIED (log 26). -/
def loopBase (mode : LoopAddr) (i : Nat) : Nat :=
  match mode with
  | .fixed => 0
  | .advancing => 64 * i

/-- The loop body (R98) at base `bs`; ITER and IDX are not its concern. -/
def longBody (K : Constants) (m : Memory) (bs : Nat) (r : LongRegs) : LongRegs :=
  let x := rotr (r.x + r.y + r.v0 + rd64 m (bs + 16)) 37 * K.k1
  let y := rotr (r.y + r.v1 + rd64 m (bs + 48)) 42 * K.k1
  let x := x ^^^ r.w1
  let y := y ^^^ r.v0
  let z := rotr (r.z ^^^ r.w0) 33
  let nv := weakHashWindow m (bs + 0) (r.v1 * K.k1) (x + r.w0)
  let nw := weakHashWindow m (bs + 32) (z + r.w1) y
  { r with x := z, y := y, z := x, v0 := nv.1, v1 := nv.2, w0 := nw.1, w1 := nw.2 }

/-- One iteration with its counters (R99). -/
def longIteration (K : Constants) (mode : LoopAddr) (m : Memory) (r : LongRegs) : LongRegs :=
  let r' := longBody K m (loopBase mode r.idx.toNat) r
  { r' with iter := r.iter - 1, idx := r.idx + 1 }

/-- `while ITER != 0` (R99), with `fuel` iterations at most; `longRun` gives it ITER itself. -/
def longLoop (K : Constants) (mode : LoopAddr) (m : Memory) : Nat → LongRegs → LongRegs
  | 0, r => r
  | fuel + 1, r => if r.iter = 0 then r else longLoop K mode m fuel (longIteration K mode m r)

/-- The working registers when the loop has ended (R95, R99). -/
def longRun (K : Constants) (mode : LoopAddr) (m : Memory) (L : Nat) : LongRegs :=
  let r := longInit K m L
  longLoop K mode m r.iter.toNat r

/-- The final step (R100). -/
def longFinal (K : Constants) (r : LongRegs) : Word :=
  combine K (combine K r.v0 r.w0 + shiftMix r.y * K.k1 + r.z) (combine K r.v1 r.w1 + r.x)

/-- `hash_long(L)` (R101). -/
def hashLong (K : Constants) (mode : LoopAddr) (m : Memory) (L : Nat) : Word :=
  longFinal K (longRun K mode m L)

/-- The long route run to its end: the working registers written (R27; log 22), the result and route code 6. -/
def completeLong (s : State) : State :=
  let r := longRun s.rom s.loopAddr s.ibuf (inputLen s)
  complete { s with long := r } (longFinal s.rom r) 6

/-- HASH_LONG (R104). -/
def execHashLong (s : State) : Host.Outcome State Fault Refusal :=
  endOp s (firstRaised [lenCheck s, bucketCheck s (decide (64 < inputLen s))]) completeLong

end Sys2Proof.Machine
end

