-- ==== Sys2Proof/Machine/HashAll.lean ====
section
/-! DEFINITION. `hash64`, the length dispatcher over the four buckets, and HASH64 (43_dispatch_control.md R106, R108). -/

namespace Sys2Proof.Machine

/-- `hash64(L)` (R106). -/
def hash64Value (K : Constants) (mode : LoopAddr) (m : Memory) (L : Nat) : Word :=
  if L ≤ 16 then hash0to16 K m L
  else if L ≤ 32 then hash17to32 K m L
  else if L ≤ 64 then hash33to64 K m L
  else hashLong K mode m L

/-- HASH64 (R108). Only L > 64 uses the working registers (R27, R28). -/
def execHash64 (s : State) : Host.Outcome State Fault Refusal :=
  endOp s (firstRaised [lenCheck s]) fun s =>
    if inputLen s ≤ 64 then
      complete s (hash64Value s.rom s.loopAddr s.ibuf (inputLen s)) (routeWord (inputLen s))
    else completeLong s

end Sys2Proof.Machine
end

