-- ==== Sys2Proof/Machine/Dispatch.lean ====
section
/-! DEFINITION. exec: one arm per command (30_encoding.md R57), each one call of its meaning. -/

namespace Sys2Proof.Machine

def exec (i : Instr) (s : State) : Host.Outcome State Fault Refusal :=
  match i with
  | .hash64 => Sys2Proof.Machine.execHash64 s
  | .hash0to16 => Sys2Proof.Machine.execHash0to16 s
  | .hash17to32 => Sys2Proof.Machine.execHash17to32 s
  | .hash33to64 => Sys2Proof.Machine.execHash33to64 s
  | .hashLong => Sys2Proof.Machine.execHashLong s
  | .classify => Sys2Proof.Machine.execClassify s
  | .rd8 => Sys2Proof.Machine.execRd8 s
  | .rd32 => Sys2Proof.Machine.execRd32 s
  | .rd64 => Sys2Proof.Machine.execRd64 s
  | .rotr shamt => Sys2Proof.Machine.execRotr shamt s
  | .shiftmix => Sys2Proof.Machine.execShiftmix s
  | .combine => Sys2Proof.Machine.execCombine s
  | .weakhash => Sys2Proof.Machine.execWeakhash s
  | .weakhashWin => Sys2Proof.Machine.execWeakhashWin s

end Sys2Proof.Machine
end

