-- ==== Sys2Proof/Machine/HostPort.lean ====
section
/-! DEFINITION. The host's transactions with the block: the register window (10_state.md R15 to R24, 20_memory.md R43,
R47) and placing IBUF bytes (R38). -/

namespace Sys2Proof.Machine

/-- The thirteen registers of the window (R15). -/
inductive HostReg where
  | cmd
  | status
  | len
  | faultInfo
  | result
  | resultHi
  | opa
  | opb
  | opc
  | opd
  | ope
  | opf
  | config
deriving DecidableEq, Repr

/-- The offset of a register (R15). -/
def HostReg.offset : HostReg → Nat
  | .cmd => 0x00
  | .status => 0x08
  | .len => 0x10
  | .faultInfo => 0x18
  | .result => 0x20
  | .resultHi => 0x28
  | .opa => 0x30
  | .opb => 0x38
  | .opc => 0x40
  | .opd => 0x48
  | .ope => 0x50
  | .opf => 0x58
  | .config => 0x60

/-- The register at a window offset (R15); `none` is a reserved offset (R24). -/
def regAt (off : Nat) : Option HostReg :=
  match off with
  | 0x00 => some .cmd
  | 0x08 => some .status
  | 0x10 => some .len
  | 0x18 => some .faultInfo
  | 0x20 => some .result
  | 0x28 => some .resultHi
  | 0x30 => some .opa
  | 0x38 => some .opb
  | 0x40 => some .opc
  | 0x48 => some .opd
  | 0x50 => some .ope
  | 0x58 => some .opf
  | 0x60 => some .config
  | _ => none

/-- CONFIG as the host reads it (R23). -/
def configWord (mode : LoopAddr) : Word :=
  match mode with
  | .fixed => 0
  | .advancing => 1

/-- The value of a register, or 0 at a reserved offset (R15, R16, R24). -/
def readWindow (s : State) (off : Nat) : Word :=
  match regAt off with
  | none => 0
  | some .cmd => 0
  | some .status => s.status.word
  | some .len => s.len
  | some .faultInfo => s.faultInfo
  | some .result => s.result
  | some .resultHi => s.resultHi
  | some .opa => s.ops.opa
  | some .opb => s.ops.opb
  | some .opc => s.ops.opc
  | some .opd => s.ops.opd
  | some .ope => s.ops.ope
  | some .opf => s.ops.opf
  | some .config => configWord s.loopAddr

/-- A write of 1 to STATUS bit 1 clears DONE, a write of 1 to bit 2 clears FAULT (R17, in every state; log 25). -/
def writeStatus (s : State) (v : Word) : State :=
  let s := if v.getLsbD 1 then doneClear s else s
  if v.getLsbD 2 then faultExit s else s

/-- A write to CMD: an issue while BUSY = 0 (R109), ignored while BUSY = 1 (R111). -/
def writeCmd (s : State) (v : Word) : State := if s.status.busy then s else issue s v

/-- A write to the window (R15, R47): read-only registers and reserved offsets ignore it. -/
def writeWindow (s : State) (off : Nat) (v : Word) : State :=
  match regAt off with
  | none => s
  | some .cmd => writeCmd s v
  | some .status => writeStatus s v
  | some .len => { s with len := v }
  | some .faultInfo => s
  | some .result => s
  | some .resultHi => s
  | some .opa => { s with ops := { s.ops with opa := v } }
  | some .opb => { s with ops := { s.ops with opb := v } }
  | some .opc => { s with ops := { s.ops with opc := v } }
  | some .opd => { s with ops := { s.ops with opd := v } }
  | some .ope => { s with ops := { s.ops with ope := v } }
  | some .opf => { s with ops := { s.ops with opf := v } }
  | some .config => s

/-- An access of the window, let through if it is 64 bits wide, at a multiple of 8, and inside the window (R43, R24,
R124; log 13, log 24). -/
def windowAccess (off width : Nat) (go : Host.Outcome State Fault Refusal) : Host.Outcome State Fault Refusal :=
  if width ≠ 64 then .refused .accessWidth
  else if off % 8 ≠ 0 then .refused .accessUnaligned
  else if 0x100 ≤ off then .fault .outsideWindow
  else go

/-- The host places bytes at `off`, `off + 1`, …: offsets below 2^63 only (R36; log 14), and no byte below L_q changed
while BUSY = 1 (R38, R124; log 15). DESIGN CHOICE (log 28): a placement that breaks both stops for its offset; the spec
gives no order. -/
def hostPlace (s : State) (off : Nat) (bytes : List Byte) : Host.Outcome State Fault Refusal :=
  if lenLimit < off + bytes.length then .fault .outsideIbuf
  else if s.status.busy && changesBelow s.ibuf s.lenQ.toNat off bytes then .refused .ibufChangedWhileBusy
  else .next { s with ibuf := placeBytes s.ibuf off bytes }

end Sys2Proof.Machine
end

