-- ==== Sys2Proof/Machine/HostProgram.lean ====
section
/-! DEFINITION. The host running its statements, one a step, and the pseudo-statements (30_encoding.md R64, R65). -/

namespace Sys2Proof.Machine

/-- The value of a host variable, if an R statement has set it. -/
def varValue (vars : List (HostVar × Word)) (t : HostVar) : Option Word :=
  match vars with
  | [] => none
  | (u, v) :: rest => if t = u then some v else varValue rest t

/-- The variables with one of them set. -/
def setVar (vars : List (HostVar × Word)) (t : HostVar) (v : Word) : List (HostVar × Word) :=
  match vars with
  | [] => [(t, v)]
  | (u, w) :: rest => if t = u then (t, v) :: rest else (u, w) :: setVar rest t v

/-- The value a W statement sends. -/
def valueOf (vars : List (HostVar × Word)) : HostValue → Option Word
  | .lit v => some v
  | .var t => varValue vars t

/-- Whether a branch condition holds (R64). -/
def condHolds (vars : List (HostVar × Word)) : HostCond → Option Bool
  | .busy t => (varValue vars t).map fun w => w.getLsbD 0
  | .done t => (varValue vars t).map fun w => w.getLsbD 1
  | .fault t => (varValue vars t).map fun w => w.getLsbD 2
  | .causeIs t code => (varValue vars t).map fun w => decide (w.extractLsb' 8 4 = code)
  | .equals t v => (varValue vars t).map fun w => decide (w = v)

/-- The position of the first statement that marks a label (log 9). -/
def labelPos (l : HostLabel) : List HostStmt → Option Nat
  | [] => none
  | st :: rest => if st = .label l then some 0 else (labelPos l rest).map (· + 1)

/-- The host goes on to its next statement. -/
def hostNext (s : State) : State := { s with host := { s.host with pos := s.host.pos + 1 } }

/-- The host goes to a label. -/
def hostGoto (s : State) (l : HostLabel) : Host.Outcome State Fault Refusal :=
  match labelPos l s.host.program with
  | none => .refused .hostLabelMissing
  | some p => .next { s with host := { s.host with pos := p } }

/-- The host keeps what it read in a variable. -/
def hostSet (s : State) (t : HostVar) (v : Word) : State :=
  { s with host := { s.host with vars := setVar s.host.vars t v } }

/-- One statement of the host (R64). -/
def hostStmt (s : State) : HostStmt → Host.Outcome State Fault Refusal
  | .write off width v =>
    match valueOf s.host.vars v with
    | none => .refused .hostVariableUnset
    | some w => windowAccess off width (.next (hostNext (writeWindow s off w)))
  | .read off width t => windowAccess off width (.next (hostNext (hostSet s t (readWindow s off))))
  | .place off bytes => hostPlace (hostNext s) off bytes
  | .label _ => .next (hostNext s)
  | .ifGoto c l =>
    match condHolds s.host.vars c with
    | none => .refused .hostVariableUnset
    | some true => hostGoto s l
    | some false => .next (hostNext s)
  | .goto l => hostGoto s l
  | .check _ _ => .next (hostNext s)

/-- A turn of the host: its next statement, or nothing once its program has ended (R132, R146; log 8). -/
def hostTurn (s : State) : Host.Outcome State Fault Refusal :=
  match s.host.program[s.host.pos]? with
  | none => .next s
  | some st => hostStmt s st

/-! ### Statements by register name and pseudo-statements (R64, R65) -/

/-- `W <REG>, <value>`. -/
def stmtW (r : HostReg) (v : Word) : HostStmt := .write r.offset 64 (.lit v)

/-- `R <REG> -> <t>`. -/
def stmtR (r : HostReg) (t : HostVar) : HostStmt := .read r.offset 64 t

/-- `IBUF <hex bytes>`. -/
def stmtIbuf (bytes : List Byte) : HostStmt := .place 0 bytes

/-- The variable `st` of R65, as a number (log 9). -/
def varSt : HostVar := 0

/-- The variable `r` of R65, as a number (log 9). -/
def varR : HostVar := 1

/-- `WAIT` with its label `l` (R65). -/
def pseudoWait (l : HostLabel) : List HostStmt := [.label l, stmtR .status varSt, .ifGoto (.busy varSt) l]

/-- `DO <command>` (R65). A command of R63 is well-formed. DESIGN CHOICE (log 29): for the term ROTR with an amount of 64
or more, which has no text and no encoding, the write sends the word `encode` gives, whatever it decodes to. -/
def pseudoDo (l : HostLabel) (i : Instr) : List HostStmt := stmtW .cmd (encode i) :: pseudoWait l

/-- `HASH <hex bytes>` (R65). -/
def pseudoHash (l : HostLabel) (bytes : List Byte) : List HostStmt :=
  [stmtIbuf bytes, stmtW .len (BitVec.ofNat 64 bytes.length)] ++ pseudoDo l .hash64 ++ [stmtR .result varR]

/-- `CLRF` (R65). -/
def pseudoClrf : List HostStmt := [stmtW .status 0x4]

/-- `CLRD` (R65). -/
def pseudoClrd : List HostStmt := [stmtW .status 0x2]

/-- The label a statement marks or goes to, if any. -/
def HostStmt.labelOf : HostStmt → Option HostLabel
  | .write _ _ _ => none
  | .read _ _ _ => none
  | .place _ _ => none
  | .label l => some l
  | .ifGoto _ l => some l
  | .goto l => some l
  | .check _ _ => none

/-- The label a line of the program as written names, if any; a pseudo-statement names none. -/
def HostLine.labelOf : HostLine → Option HostLabel
  | .stmt st => st.labelOf
  | .wait => none
  | .command _ => none
  | .hash _ => none
  | .clrf => none
  | .clrd => none

/-- The first label above every label the program as written names; every label from here on is fresh (R65). -/
def freshLabel : List HostLine → HostLabel
  | [] => 0
  | ln :: rest =>
    match ln.labelOf with
    | none => freshLabel rest
    | some l => max (l + 1) (freshLabel rest)

/-- One line with the label `l` for its use (R65). -/
def expandLine (l : HostLabel) : HostLine → List HostStmt
  | .stmt st => [st]
  | .wait => pseudoWait l
  | .command i => pseudoDo l i
  | .hash bytes => pseudoHash l bytes
  | .clrf => pseudoClrf
  | .clrd => pseudoClrd

/-- The lines, the next one with the label `l` and each later one with the label after it. -/
def expandLines (l : HostLabel) : List HostLine → List HostStmt
  | [] => []
  | ln :: rest => expandLine l ln ++ expandLines (l + 1) rest

/-- The statements of a host program as written, "with a fresh label per use" of a pseudo-statement (R65). -/
def expandProgram (lines : List HostLine) : List HostStmt := expandLines (freshLabel lines) lines

end Sys2Proof.Machine
end

