-- ==== Sys2Proof/Machine/EndStep.lean ====
section
/-! DEFINITION. The end step of an operation (43_dispatch_control.md R110), the run's record (60 R122), and whose turn
it is (70 R144; log 6). -/

namespace Sys2Proof.Machine

/-- How the operation that has just ended did (R146). -/
def endOutcome (t : State) : EndOutcome :=
  if t.status.done then .completed t.result t.resultHi else .faulted t.status.cause t.faultInfo

/-- The record with the end step that led to `t` (R122, R146). -/
def noteEnd (t : State) : State := { t with record := t.record ++ [{ cmd := t.cmdQ, outcome := endOutcome t }] }

/-- Decode CMD_q, then run the operation or enter the fault of an illegal encoding (R110, R116). -/
def runCommand (s : State) : Host.Outcome State Fault Refusal :=
  match decode s.cmdQ with
  | .illegalOp => .next (faultEntry s .illegalOp s.cmdQ)
  | .illegalCmd => .next (faultEntry s .illegalCmd s.cmdQ)
  | .command i => exec i s

/-- The end step (R110, R113), recorded. -/
def endStep (s : State) : Host.Outcome State Fault Refusal :=
  match runCommand s with
  | .next t => .next (noteEnd t)
  | .fault r => .fault r
  | .refused r => .refused r

/-- A turn of the block: its end step while PHASE = RUN, nothing while PHASE = IDLE (R110, R132; log 8). -/
def blockTurn (s : State) : Host.Outcome State Fault Refusal :=
  match s.phase with
  | .idle => .next s
  | .run => endStep s

/-- Whose turn it is: the first of the turns; with none left, the block's while it runs (R114), else the host's. -/
def nextAgent (s : State) : Agent :=
  match s.turns with
  | a :: _ => a
  | [] => match s.phase with
    | .run => .block
    | .idle => .host

/-- The turn is taken. -/
def takeTurn (s : State) : State := { s with turns := s.turns.tail }

end Sys2Proof.Machine
end

