-- ==== Sys2Proof/Machine/Step.lean ====
section
/-! DEFINITION. One step: the agent whose turn it is moves (10_state.md R12). -/

namespace Sys2Proof.Machine

/-- One step of the machine. -/
def step (s : State) : Host.Outcome State Fault Refusal :=
  match nextAgent s with
  | .block => blockTurn (takeTurn s)
  | .host => hostTurn (takeTurn s)
  | .platform => .next (platformReset (takeTurn s))

/-- `s` with the command word `w` issued (R109) and the block to move next: the block fetches nothing (R30), and a
command comes to run by the host's write to CMD (log 7). -/
def State.withFetchWord (s : State) (nbits w : Nat) : State :=
  { issue s (BitVec.ofNat 64 (w % 2 ^ nbits)) with turns := .block :: s.turns }

end Sys2Proof.Machine
end

