-- ==== Sys2Proof/Safety.lean ====
section
/-! DEFINITION. The terms claims are made in: the invariant of the block, the end of a run and a faulted run
(70_reset_and_hazards.md R146), and what an operation's result may depend on (00_scope.md R11). -/

namespace Sys2Proof.Machine

/-- The constants are odd (R14: "Bit 0 of every constant is 1"). -/
def romOdd (K : Constants) : Bool :=
  K.k0.getLsbD 0 && K.k1.getLsbD 0 && K.k2.getLsbD 0 && K.k3.getLsbD 0 && K.kMul.getLsbD 0

/-- The legal combinations of (BUSY, DONE, FAULT) (R17). -/
def statusLegal (st : Status) : Bool :=
  match st.busy, st.done, st.fault with
  | false, false, false => true
  | true, false, false => true
  | false, true, false => true
  | false, false, true => true
  | _, _, _ => false

/-- An end step is recorded with a real cause if it faulted (R116). -/
def recordSound (e : EndRecord) : Bool :=
  match e.outcome with
  | .completed _ _ => true
  | .faulted c _ => decide (c ≠ .noFault)

/-- The invariant of the machine. -/
structure Inv (s : State) : Prop where
  /-- IBUF is in canonical form (log 1). -/
  ibufCanonical : Memory.wf s.ibuf = true
  /-- PHASE = RUN exactly when BUSY = 1 (R26). -/
  phaseBusy : s.phase = .run ↔ s.status.busy = true
  /-- (BUSY, DONE, FAULT) is a legal combination (R17). -/
  legal : statusLegal s.status = true
  /-- CAUSE is 0 exactly while FAULT = 0 (R17, R116). -/
  causeFault : s.status.cause = .noFault ↔ s.status.fault = false
  /-- FAULT_INFO is 0 while FAULT = 0 (R19). -/
  infoFault : s.status.fault = false → s.faultInfo = 0
  /-- The constants are odd (R14). -/
  constantsOdd : romOdd s.rom = true
  /-- Every recorded fault has a cause (R116). -/
  recordCauses : s.record.all recordSound = true

/-- An end step that faulted (R146). -/
def EndRecord.isFault (e : EndRecord) : Bool :=
  match e.outcome with
  | .completed _ _ => false
  | .faulted _ _ => true

/-- A faulted run: "A run in which any end step faulted" (R146). -/
def faultedRun (s : State) : Bool := s.record.any EndRecord.isFault

/-- The run has ended: the host has made its last statement and PHASE = IDLE (R146). -/
def runEnded (s : State) : Bool := decide (s.host.program.length ≤ s.host.pos) && decide (s.phase = .idle)

/-- The end state of a run (R146): RESULT, RESULT_HI, STATUS, FAULT_INFO; LEN and OPA to OPF; the record. -/
structure EndState where
  result : Word
  resultHi : Word
  status : Word
  faultInfo : Word
  len : Word
  ops : Operands
  record : List EndRecord
deriving DecidableEq, Repr

/-- The end-of-run tuple of a state (R146). -/
def endState (s : State) : EndState :=
  { result := s.result, resultHi := s.resultHi, status := s.status.word, faultInfo := s.faultInfo
    len := s.len, ops := s.ops, record := s.record }

/-- A launch state of a run: PHASE = IDLE, the invariant, nothing recorded yet (R146). -/
def launchState (s : State) : Prop := Inv s ∧ s.phase = .idle ∧ s.record = []

/-- A CHECK statement's assertion holds where the host stands (R64; log 10). -/
def checkHolds (s : State) : Bool :=
  match s.host.program[s.host.pos]? with
  | some (.check t v) => decide (varValue s.host.vars t = some v)
  | _ => true

/-- Two states agree on what a hash operation may use: L_q, the IBUF bytes below it, K and LOOP_ADDR (R11). -/
structure SameInput (s t : State) : Prop where
  lenQ : s.lenQ = t.lenQ
  rom : s.rom = t.rom
  loopAddr : s.loopAddr = t.loopAddr
  bytes : ∀ off, off < s.lenQ.toNat → Memory.read s.ibuf off = Memory.read t.ibuf off

/-- `k` steps, stopping at the first fault or refusal. -/
def runSteps : Nat → State → Host.Outcome State Fault Refusal
  | 0, s => .next s
  | k + 1, s =>
    match step s with
    | .next t => runSteps k t
    | .fault r => .fault r
    | .refused r => .refused r

/-- The next state of an outcome, if it is one. -/
def nextState (o : Host.Outcome State Fault Refusal) : Option State :=
  match o with
  | .next t => some t
  | .fault _ => none
  | .refused _ => none

/-! ### The next states of the rules, written from the rules' own words -/

/-- A completed operation (R110): "writes RESULT and RESULT_HI as the operation's rule says, and sets STATUS.BUSY <- 0,
STATUS.DONE <- 1 and PHASE <- IDLE". Every other field is as before. -/
def afterDone (s : State) (result resultHi : Word) : State :=
  { s with
    result := result
    resultHi := resultHi
    status := { s.status with busy := false, done := true }
    phase := .idle }

/-- A faulted operation (R119): BUSY 0, DONE 0, FAULT 1, CAUSE, FAULT_INFO, PHASE IDLE. "No other state changes". -/
def afterFault (s : State) (c : Cause) (info : Word) : State :=
  { s with
    status := { busy := false, done := false, fault := true, cause := c }
    faultInfo := info
    phase := .idle }

/-- An end step in the record (R122, R146): `t` with one more entry. -/
def withRecord (t : State) (cmd : Word) (o : EndOutcome) : State :=
  { t with record := t.record ++ [{ cmd := cmd, outcome := o }] }

/-- The block moves next and has a step: PHASE = RUN (R110), and the turn is the block's. -/
def blockMoves (s : State) : Prop := s.phase = .run ∧ (s.turns = [] ∨ s.turns.head? = some .block)

/-- The host moves next and its next statement is `st`. -/
def hostMoves (s : State) (st : HostStmt) : Prop :=
  (s.turns.head? = some .host ∨ (s.turns = [] ∧ s.phase = .idle)) ∧ s.host.program[s.host.pos]? = some st

/-- The variable a branch condition reads (R64). -/
def condVar : HostCond → HostVar
  | .busy t => t
  | .done t => t
  | .fault t => t
  | .causeIs t _ => t
  | .equals t _ => t

/-- The condition `c` on a variable that holds `w` (R64): BUSY is `w[0]`, DONE `w[1]`, FAULT `w[2]`, CAUSE `w[11:8]`. -/
def condOf (c : HostCond) (w : Word) : Bool :=
  match c with
  | .busy _ => w.getLsbD 0
  | .done _ => w.getLsbD 1
  | .fault _ => w.getLsbD 2
  | .causeIs _ code => decide (w.extractLsb' 8 4 = code)
  | .equals _ v => decide (w = v)

/-- `p` is the first position of the host's program that marks the label `l`. -/
def marksFirst (s : State) (l : HostLabel) (p : Nat) : Prop :=
  s.host.program[p]? = some (.label l) ∧ ∀ q, q < p → s.host.program[q]? ≠ some (.label l)

/-- The turn taken, nothing else changed. -/
def turnTaken (s : State) : State := { s with turns := s.turns.tail }

/-- The host at position `p`, nothing else changed but the turn. -/
def hostMovedTo (s : State) (p : Nat) : State := { turnTaken s with host := { s.host with pos := p } }

/-- The turn taken and the host at its next statement, nothing else changed. -/
def hostMoved (s : State) : State :=
  { s with turns := s.turns.tail, host := { s.host with pos := s.host.pos + 1 } }

/-- A host read of the value `w` into the variable `x`: the turn taken, the host at its next statement, the variable
set, nothing else changed. -/
def hostReadDone (s : State) (x : HostVar) (w : Word) : State :=
  { s with
    turns := s.turns.tail
    host := { s.host with pos := s.host.pos + 1, vars := setVar s.host.vars x w } }

/-- `w` is the one encoding of `i`: it decodes to `i`, and every other word with its OP is ILLEGAL_CMD (R60, R62). -/
def encodedOnlyBy (i : Instr) (w : Word) : Prop :=
  decode w = .command i ∧ ∀ v : Word, v.extractLsb' 0 8 = w.extractLsb' 0 8 → v ≠ w → decode v = .illegalCmd

/-- The assigned OP values (R57, R62). -/
def assignedOps : List Nat := [0x01, 0x02, 0x03, 0x04, 0x05, 0x06, 0x10, 0x11, 0x12, 0x20, 0x21, 0x22, 0x30, 0x31]

/-- The OP values of the operations that raise LEN_RANGE (R116): HASH64, HASH_0TO16, HASH_17TO32, HASH_33TO64,
HASH_LONG, CLASSIFY, RD8, RD32, RD64, WEAKHASH_WIN. -/
def lenReadingOps : List Nat := [0x01, 0x02, 0x03, 0x04, 0x05, 0x06, 0x10, 0x11, 0x12, 0x31]

/-- The condition of BUCKET_RANGE (R116) for the operation OP at length L. -/
def bucketBroken (op L : Nat) : Prop :=
  (op = 0x02 ∧ 16 < L) ∨ (op = 0x03 ∧ ¬ (17 ≤ L ∧ L ≤ 32)) ∨ (op = 0x04 ∧ ¬ (33 ≤ L ∧ L ≤ 64)) ∨ (op = 0x05 ∧ L ≤ 64)

/-- The condition of READ_OOB (R116) for the operation OP at length L and offset `off`. -/
def readBroken (op L off : Nat) : Prop :=
  (op = 0x10 ∧ L < off + 1) ∨ (op = 0x11 ∧ L < off + 4) ∨ (op = 0x12 ∧ L < off + 8) ∨ (op = 0x31 ∧ L < off + 32)

/-- The fault a latched command is due, with its FAULT_INFO: the first in the order of R118 of the conditions of R116,
or none. -/
inductive FaultDue (cmd lenQ opaQ : Word) : Cause → Word → Prop where
  | illegalOp (h : (cmd.extractLsb' 0 8).toNat ∉ assignedOps) : FaultDue cmd lenQ opaQ .illegalOp cmd
  | illegalCmd (h : (cmd.extractLsb' 0 8).toNat ∈ assignedOps)
      (h' : cmd.extractLsb' 14 50 ≠ 0 ∨ (cmd.extractLsb' 8 6 ≠ 0 ∧ cmd.extractLsb' 0 8 ≠ 0x20)) :
      FaultDue cmd lenQ opaQ .illegalCmd cmd
  | lenRange (op : Nat) (hop : op = (cmd.extractLsb' 0 8).toNat) (h : op ∈ lenReadingOps)
      (h1 : cmd.extractLsb' 14 50 = 0) (h2 : cmd.extractLsb' 8 6 = 0) (h' : 2 ^ 63 ≤ lenQ.toNat) :
      FaultDue cmd lenQ opaQ .lenRange lenQ
  | bucketRange (op : Nat) (hop : op = (cmd.extractLsb' 0 8).toNat) (h : lenQ.toNat < 2 ^ 63)
      (h1 : cmd.extractLsb' 14 50 = 0) (h2 : cmd.extractLsb' 8 6 = 0) (h' : bucketBroken op lenQ.toNat) :
      FaultDue cmd lenQ opaQ .bucketRange lenQ
  | readOob (op : Nat) (hop : op = (cmd.extractLsb' 0 8).toNat) (h : lenQ.toNat < 2 ^ 63)
      (h1 : cmd.extractLsb' 14 50 = 0) (h2 : cmd.extractLsb' 8 6 = 0) (h' : readBroken op lenQ.toNat opaQ.toNat) :
      FaultDue cmd lenQ opaQ .readOob opaQ

end Sys2Proof.Machine
end

