-- ==== Sys2Proof/Certificates/Slice0/Obligations.lean ====
section
/-! DEFINITION. The statements for the provers, from the numbered rules of spec/. `afterDone`, `afterFault`,
`blockMoves`, `hostMoves`, `encodedOnlyBy`, `Inv` and the other terms are in Sys2Proof/Safety.lean. Where a statement
names `rd8`, `rd32`, `rd64`, `rotr`, `shiftMix`, `combine` or `weakHash`, another statement here says what that
function is. -/

open Sys2Proof Sys2Proof.Machine

/-! ### Encoding -/

/-- R62, R59, R63: decoding and encoding agree in both directions, for every command and every word. -/
def Obligations.DecodeAndEncodeAgree : Prop :=
  ∀ (i : Instr) (w : Word), decode w = .command i ↔ (i.wellFormed = true ∧ encode i = w)

/-- R62: decoding is the match/mask table: ROTR under mask 0xFFFFFFFFFFFFC0FF, every other operation exactly. -/
def Obligations.DecodeIsMatchUnderMask : Prop :=
  ∀ w : Word,
    (∀ s : Nat, decode w = .command (.rotr s) ↔
      (w &&& 0xFFFFFFFFFFFFC0FF = 0x0000000000000020 ∧ s = (w.extractLsb' 8 6).toNat)) ∧
    (∀ p ∈ [(Instr.hash64, (0x01 : Word)), (.hash0to16, 0x02), (.hash17to32, 0x03), (.hash33to64, 0x04),
        (.hashLong, 0x05), (.classify, 0x06), (.rd8, 0x10), (.rd32, 0x11), (.rd64, 0x12), (.shiftmix, 0x21),
        (.combine, 0x22), (.weakhash, 0x30), (.weakhashWin, 0x31)],
      decode w = .command p.1 ↔ w &&& 0xFFFFFFFFFFFFFFFF = p.2)

/-- R63: the words of a few commands, written out from the rule. -/
def Obligations.WrittenWordsDecode : Prop :=
  decode 0x0000000000000001 = .command .hash64 ∧ decode 0x0000000000000004 = .command .hash33to64 ∧
  decode 0x0000000000000006 = .command .classify ∧ decode 0x0000000000000012 = .command .rd64 ∧
  decode 0x0000000000002B20 = .command (.rotr 43) ∧ decode 0x0000000000000022 = .command .combine ∧
  decode 0x0000000000000031 = .command .weakhashWin ∧ decode 0x0000000000004001 = .illegalCmd ∧
  decode 0x0000000000000121 = .illegalCmd ∧ decode 0x0000000000004007 = .illegalOp

/-- R61: a latched command with an unassigned OP ends in ILLEGAL_OP, with FAULT_INFO the whole word. -/
def Obligations.UnassignedOpFaultsIllegalOp : Prop :=
  ∀ (s : State) (op : Nat), blockMoves s → op = (s.cmdQ.extractLsb' 0 8).toNat →
    (op = 0x00 ∨ (0x07 ≤ op ∧ op ≤ 0x0F) ∨ (0x13 ≤ op ∧ op ≤ 0x1F) ∨ (0x23 ≤ op ∧ op ≤ 0x2F) ∨
      (0x32 ≤ op ∧ op ≤ 0xFF)) →
    step s = .next (withRecord (afterFault (turnTaken s) .illegalOp s.cmdQ) s.cmdQ (.faulted .illegalOp s.cmdQ))

/-- R60: an assigned OP with a reserved bit set, or with SHAMT ≠ 0 outside ROTR, ends in ILLEGAL_CMD, with FAULT_INFO
the whole word. -/
def Obligations.ReservedBitsFaultIllegalCmd : Prop :=
  ∀ s : State, blockMoves s → (s.cmdQ.extractLsb' 0 8).toNat ∈ assignedOps →
    (s.cmdQ.extractLsb' 14 50 ≠ 0 ∨ (s.cmdQ.extractLsb' 0 8 ≠ 0x20 ∧ s.cmdQ.extractLsb' 8 6 ≠ 0)) →
    step s = .next (withRecord (afterFault (turnTaken s) .illegalCmd s.cmdQ) s.cmdQ (.faulted .illegalCmd s.cmdQ))

/-! ### The step -/

/-- R110: when the latched word decodes to a command and the block moves, the step is that command's `exec` at this
state with its turn taken, and the end step is recorded. -/
def Obligations.StepRunsDecodedCommand : Prop :=
  ∀ (s : State) (i : Instr), blockMoves s → decode s.cmdQ = .command i →
    ∃ t, exec i (turnTaken s) = .next t ∧
      step s = .next (withRecord t t.cmdQ
        (if t.status.done then .completed t.result t.resultHi else .faulted t.status.cause t.faultInfo))

/-- R118, R119: the end step enters exactly the fault that is due (`FaultDue`: the first of R116's conditions in R118's
order), with R119's fault entry and nothing else changed; if none is due it completes without a fault. -/
def Obligations.FirstDueFaultIsReported : Prop :=
  ∀ s : State, Inv s → blockMoves s →
    (∃ c info, step s = .next (withRecord (afterFault (turnTaken s) c info) s.cmdQ (.faulted c info)) ∧
      ∀ c' info', FaultDue s.cmdQ s.lenQ s.opsQ.opa c' info' ↔ (c' = c ∧ info' = info)) ∨
    (∃ t, step s = .next t ∧ t.status.fault = false ∧ t.status.done = true ∧
      ∀ c info, ¬ FaultDue s.cmdQ s.lenQ s.opsQ.opa c info)

/-- The spec's own inference in R123 ("[derived: from rule R117 and `43_dispatch_control.md` rule R106]"): HASH64 with
its legal encoding and L below 2^63 never faults; it completes. -/
def Obligations.Hash64NeverFaults : Prop :=
  ∀ s : State, Inv s → blockMoves s → s.cmdQ = 0x0000000000000001 → s.lenQ.toNat < 2 ^ 63 →
    ∃ t, step s = .next t ∧ t.status = { busy := false, done := true, fault := false, cause := .noFault } ∧
      t.phase = .idle

/-! ### Word readers -/

/-- R41: MemRead is the little-endian sum of its bytes, zero-extended. -/
def Obligations.MemReadIsLittleEndianSum : Prop :=
  ∀ (m : Memory) (off n : Nat), n = 1 ∨ n = 4 ∨ n = 8 →
    (memRead m off n).toNat = ∑ i ∈ Finset.range n, (Memory.read m (off + i)).toNat * 2 ^ (8 * i)

/-- The spec's own inference in R44 ("[derived: from rule R41]"): reads of different widths over the same bytes. -/
def Obligations.MixedWidthReadsAgree : Prop :=
  ∀ (m : Memory) (off : Nat),
    memRead m off 4 = ((memRead m off 8).extractLsb' 0 32).setWidth 64 ∧
    memRead m off 1 = ((memRead m off 8).extractLsb' 0 8).setWidth 64 ∧
    memRead m (off + 4) 4 = ((memRead m off 8).extractLsb' 32 32).setWidth 64

/-- R69: RD8. -/
def Obligations.Rd8ReadsOneByte : Prop :=
  encodedOnlyBy .rd8 0x0000000000000010 ∧
  ∀ s : State,
    (2 ^ 63 ≤ s.lenQ.toNat → exec .rd8 s = .next (afterFault s .lenRange s.lenQ)) ∧
    (s.lenQ.toNat < 2 ^ 63 → s.lenQ.toNat < s.opsQ.opa.toNat + 1 →
      exec .rd8 s = .next (afterFault s .readOob s.opsQ.opa)) ∧
    (s.lenQ.toNat < 2 ^ 63 → s.opsQ.opa.toNat + 1 ≤ s.lenQ.toNat →
      exec .rd8 s = .next (afterDone s ((Memory.read s.ibuf s.opsQ.opa.toNat).setWidth 64) 0))

/-- R70: RD32. -/
def Obligations.Rd32ReadsFourBytes : Prop :=
  encodedOnlyBy .rd32 0x0000000000000011 ∧
  ∀ (s : State) (b : Nat → Nat), (∀ k, b k = (Memory.read s.ibuf (s.opsQ.opa.toNat + k)).toNat) →
    (2 ^ 63 ≤ s.lenQ.toNat → exec .rd32 s = .next (afterFault s .lenRange s.lenQ)) ∧
    (s.lenQ.toNat < 2 ^ 63 → s.lenQ.toNat < s.opsQ.opa.toNat + 4 →
      exec .rd32 s = .next (afterFault s .readOob s.opsQ.opa)) ∧
    (s.lenQ.toNat < 2 ^ 63 → s.opsQ.opa.toNat + 4 ≤ s.lenQ.toNat →
      exec .rd32 s = .next (afterDone s
        (BitVec.ofNat 64 (b 0 + 2 ^ 8 * b 1 + 2 ^ 16 * b 2 + 2 ^ 24 * b 3)) 0))

/-- R71: RD64. -/
def Obligations.Rd64ReadsEightBytes : Prop :=
  encodedOnlyBy .rd64 0x0000000000000012 ∧
  ∀ (s : State) (b : Nat → Nat), (∀ k, b k = (Memory.read s.ibuf (s.opsQ.opa.toNat + k)).toNat) →
    (2 ^ 63 ≤ s.lenQ.toNat → exec .rd64 s = .next (afterFault s .lenRange s.lenQ)) ∧
    (s.lenQ.toNat < 2 ^ 63 → s.lenQ.toNat < s.opsQ.opa.toNat + 8 →
      exec .rd64 s = .next (afterFault s .readOob s.opsQ.opa)) ∧
    (s.lenQ.toNat < 2 ^ 63 → s.opsQ.opa.toNat + 8 ≤ s.lenQ.toNat →
      exec .rd64 s = .next (afterDone s
        (BitVec.ofNat 64 (b 0 + 2 ^ 8 * b 1 + 2 ^ 16 * b 2 + 2 ^ 24 * b 3 + 2 ^ 32 * b 4 + 2 ^ 40 * b 5 +
          2 ^ 48 * b 6 + 2 ^ 56 * b 7)) 0))

/-! ### Mixers -/

/-- rotr(v, s) as R72 defines it, and the spec's own inference there ("[derived: from the definition]"): bit i of it is
bit ((i + s) mod 64) of v. -/
def Obligations.RotrMovesBits : Prop :=
  (∀ v : Word, rotr v 0 = v) ∧
  (∀ (v : Word) (s : Nat), 1 ≤ s → s ≤ 63 → rotr v s = (v >>> s) ||| (v <<< (64 - s))) ∧
  (∀ (v : Word) (s i : Nat), s ≤ 63 → i < 64 → (rotr v s).getLsbD i = v.getLsbD ((i + s) % 64))

/-- R73: ROTR, its only encodings `0x20 | (k << 8)` with k at most 63. It never reads LEN; an encoding with a reserved
bit is ILLEGAL_CMD. -/
def Obligations.RotrRotatesOperand : Prop :=
  (∀ (k : Nat) (w : Word), decode w = .command (.rotr k) ↔ (k ≤ 63 ∧ w = 0x20 ||| (BitVec.ofNat 64 k <<< 8))) ∧
  (∀ w : Word, w.extractLsb' 0 8 = 0x20 → w.extractLsb' 14 50 ≠ 0 → decode w = .illegalCmd) ∧
  ∀ (s : State) (k : Nat), k ≤ 63 → exec (.rotr k) s = .next (afterDone s (rotr s.opsQ.opa k) 0)

/-- The model's choice (log 18, from I6 of 93_implementation_defined.md): a rotation by 64 or more, which has no
encoding, is refused. -/
def Obligations.RotationBeyondFieldIsRefused : Prop :=
  ∀ (s : State) (k : Nat), 64 ≤ k →
    exec (.rotr k) s = .refused .rotateAmount ∧ ∀ w : Word, decode w ≠ .command (.rotr k)

/-- R75: SHIFTMIX. -/
def Obligations.ShiftmixMixesOperand : Prop :=
  encodedOnlyBy .shiftmix 0x0000000000000021 ∧
  ∀ s : State, exec .shiftmix s = .next (afterDone s (s.opsQ.opa ^^^ (s.opsQ.opa >>> 47)) 0)

/-- shift_mix as R74 defines it, and the spec's own inferences in R74 ("[derived: from the definition]") and R75
("[derived: from rule R74]"): which bits it changes, and that it is its own inverse. -/
def Obligations.ShiftMixIsItsOwnInverse : Prop :=
  ∀ v : Word, shiftMix v = v ^^^ (v >>> 47) ∧ (shiftMix v).extractLsb' 17 47 = v.extractLsb' 17 47 ∧
    (shiftMix v).extractLsb' 0 17 = v.extractLsb' 0 17 ^^^ v.extractLsb' 47 17 ∧ shiftMix (shiftMix v) = v

/-- R76, R77: COMBINE, with the compressor spelled out. -/
def Obligations.CombineFoldsOperands : Prop :=
  encodedOnlyBy .combine 0x0000000000000022 ∧
  (∀ (K : Constants) (u v a0 a1 b0 b1 : Word),
    a0 = (u ^^^ v) * K.kMul → a1 = a0 ^^^ (a0 >>> 47) → b0 = (v ^^^ a1) * K.kMul → b1 = b0 ^^^ (b0 >>> 47) →
      combine K u v = b1 * K.kMul) ∧
  ∀ s : State, exec .combine s = .next (afterDone s (combine s.rom s.opsQ.opa s.opsQ.opb) 0)

/-! ### The dispatcher and the short routes -/

/-- R107, R105: CLASSIFY, with the route codes. -/
def Obligations.ClassifyReportsRoute : Prop :=
  encodedOnlyBy .classify 0x0000000000000006 ∧
  ∀ (s : State) (L : Nat), L = s.lenQ.toNat →
    (2 ^ 63 ≤ L → exec .classify s = .next (afterFault s .lenRange s.lenQ)) ∧
    (L = 0 → exec .classify s = .next (afterDone s 0 0)) ∧
    (1 ≤ L ∧ L ≤ 3 → exec .classify s = .next (afterDone s 1 0)) ∧
    (4 ≤ L ∧ L ≤ 8 → exec .classify s = .next (afterDone s 2 0)) ∧
    (9 ≤ L ∧ L ≤ 16 → exec .classify s = .next (afterDone s 3 0)) ∧
    (17 ≤ L ∧ L ≤ 32 → exec .classify s = .next (afterDone s 4 0)) ∧
    (33 ≤ L ∧ L ≤ 64 → exec .classify s = .next (afterDone s 5 0)) ∧
    (65 ≤ L ∧ L < 2 ^ 63 → exec .classify s = .next (afterDone s 6 0))

/-- R88, R78 to R82: HASH_0TO16, each sub-route spelled out. The 32-bit intermediates of R79 are natural numbers here.
-/
def Obligations.Hash0to16RunsShortBucket : Prop :=
  encodedOnlyBy .hash0to16 0x0000000000000002 ∧
  ∀ (s : State) (L : Nat) (m : Memory) (K : Constants), L = s.lenQ.toNat → m = s.ibuf → K = s.rom →
    (2 ^ 63 ≤ L → exec .hash0to16 s = .next (afterFault s .lenRange s.lenQ)) ∧
    (L < 2 ^ 63 → 16 < L → exec .hash0to16 s = .next (afterFault s .bucketRange s.lenQ)) ∧
    (L = 0 → exec .hash0to16 s = .next (afterDone s 0x9ae16a3b2f90404f 0)) ∧
    (1 ≤ L ∧ L ≤ 3 →
      exec .hash0to16 s = .next (afterDone s
        (shiftMix ((BitVec.ofNat 64 ((Memory.read m 0).toNat + 256 * (Memory.read m (L / 2)).toNat) * 0x9ae16a3b2f90404f) ^^^
          (BitVec.ofNat 64 (L + 4 * (Memory.read m (L - 1)).toNat) * K.k3)) * 0x9ae16a3b2f90404f) 1)) ∧
    (4 ≤ L ∧ L ≤ 8 →
      exec .hash0to16 s = .next (afterDone s
        (combine K (BitVec.ofNat 64 L + (rd32 m 0 <<< 3)) (rd32 m (L - 4))) 2)) ∧
    (9 ≤ L ∧ L ≤ 16 →
      exec .hash0to16 s = .next (afterDone s
        (combine K (rd64 m 0) (rotr (rd64 m (L - 8) + BitVec.ofNat 64 L) L) ^^^ rd64 m (L - 8)) 3))

/-- R89, R83: HASH_17TO32. -/
def Obligations.Hash17to32RunsBucket : Prop :=
  encodedOnlyBy .hash17to32 0x0000000000000003 ∧
  ∀ (s : State) (L : Nat) (m : Memory) (K : Constants) (a b c d : Word), L = s.lenQ.toNat → m = s.ibuf → K = s.rom →
    a = rd64 m 0 * K.k1 → b = rd64 m 8 → c = rd64 m (L - 8) * 0x9ae16a3b2f90404f → d = rd64 m (L - 16) * K.k0 →
    (2 ^ 63 ≤ L → exec .hash17to32 s = .next (afterFault s .lenRange s.lenQ)) ∧
    (L < 2 ^ 63 → L < 17 ∨ 32 < L → exec .hash17to32 s = .next (afterFault s .bucketRange s.lenQ)) ∧
    (17 ≤ L ∧ L ≤ 32 →
      exec .hash17to32 s = .next (afterDone s
        (combine K (rotr (a - b) 43 + rotr c 30 + d) (a + rotr (b ^^^ K.k3) 20 - c + BitVec.ofNat 64 L)) 4))

/-- R90, R84 to R86: HASH_33TO64, every intermediate word named once. -/
def Obligations.Hash33to64RunsBucket : Prop :=
  encodedOnlyBy .hash33to64 0x0000000000000004 ∧
  ∀ (s : State) (L : Nat) (m : Memory) (K : Constants)
    (z a a1 a2 c vf vs z' a' a1' a2' c' wf ws r : Word),
    L = s.lenQ.toNat → m = s.ibuf → K = s.rom →
    z = rd64 m 24 → a = rd64 m 0 + (BitVec.ofNat 64 L + rd64 m (L - 16)) * K.k0 →
    a1 = a + rd64 m 8 → a2 = a1 + rd64 m 16 → c = rotr a 37 + rotr a1 7 →
    vf = a2 + z → vs = rotr (a + z) 52 + rotr a2 31 + c →
    z' = rd64 m (L - 8) → a' = rd64 m 16 + rd64 m (L - 32) →
    a1' = a' + rd64 m (L - 24) → a2' = a1' + rd64 m (L - 16) → c' = rotr a' 37 + rotr a1' 7 →
    wf = a2' + z' → ws = rotr (a' + z') 52 + rotr a2' 31 + c' →
    r = shiftMix ((vf + ws) * 0x9ae16a3b2f90404f + (wf + vs) * K.k0) →
    (2 ^ 63 ≤ L → exec .hash33to64 s = .next (afterFault s .lenRange s.lenQ)) ∧
    (L < 2 ^ 63 → L < 33 ∨ 64 < L → exec .hash33to64 s = .next (afterFault s .bucketRange s.lenQ)) ∧
    (33 ≤ L ∧ L ≤ 64 →
      exec .hash33to64 s = .next (afterDone s (shiftMix (r * K.k0 + vs) * 0x9ae16a3b2f90404f) 5))

/-! ### The weak-hash roller and the long route -/

/-- R93, R91: WEAKHASH, with the mixing step spelled out. -/
def Obligations.WeakhashMixesSixWords : Prop :=
  encodedOnlyBy .weakhash 0x0000000000000030 ∧
  (∀ w x y z seedA seedB a1 a2 : Word, a1 = seedA + w → a2 = a1 + x + y →
    weakHash w x y z seedA seedB = (a2 + z, rotr (seedB + a1 + z) 21 + rotr a2 44 + a1)) ∧
  ∀ (s : State) (p : Word × Word),
    p = weakHash s.opsQ.opa s.opsQ.opb s.opsQ.opc s.opsQ.opd s.opsQ.ope s.opsQ.opf →
    exec .weakhash s = .next (afterDone s p.1 p.2)

/-- R94, R92: WEAKHASH_WIN. -/
def Obligations.WeakhashWinMixesWindow : Prop :=
  encodedOnlyBy .weakhashWin 0x0000000000000031 ∧
  ∀ (s : State) (L off : Nat) (m : Memory) (p : Word × Word), L = s.lenQ.toNat → off = s.opsQ.opa.toNat → m = s.ibuf →
    p = weakHash (rd64 m off) (rd64 m (off + 8)) (rd64 m (off + 16)) (rd64 m (off + 24)) s.opsQ.opb s.opsQ.opc →
    (2 ^ 63 ≤ L → exec .weakhashWin s = .next (afterFault s .lenRange s.lenQ)) ∧
    (L < 2 ^ 63 → L < off + 32 → exec .weakhashWin s = .next (afterFault s .readOob s.opsQ.opa)) ∧
    (L < 2 ^ 63 → off + 32 ≤ L → exec .weakhashWin s = .next (afterDone s p.1 p.2))

/-- R104, R95 to R101: HASH_LONG. The working registers go through n = floor((L − 1) / 64) iterations: `r 0` is the
initialisation of R95, `r (i + 1)` is R98 on `r i`. That the state keeps `r n` (ITER 0, IDX n) after the operation is
the model's choice (log 22): R33 and I12 give the working registers any value between operations. The spec itself says
of ADVANCING's step of 64 that it is "[from general knowledge, not in source]" (R97; log 26). -/
def Obligations.HashLongRunsItsIterations : Prop :=
  encodedOnlyBy .hashLong 0x0000000000000005 ∧
  ∀ (s : State) (L n : Nat) (m : Memory) (K : Constants),
    L = s.lenQ.toNat → n = (L - 1) / 64 → m = s.ibuf → K = s.rom →
    (2 ^ 63 ≤ L → exec .hashLong s = .next (afterFault s .lenRange s.lenQ)) ∧
    (L ≤ 64 → exec .hashLong s = .next (afterFault s .bucketRange s.lenQ)) ∧
    (65 ≤ L → L < 2 ^ 63 →
      ∃ r : Nat → LongRegs,
        (∃ (y0 z0 : Word) (v w : Word × Word),
          y0 = rd64 m (L - 16) ^^^ K.k1 ∧ z0 = (rd64 m (L - 56) ^^^ K.k0) + shiftMix v.2 * K.k1 ∧
          v = weakHash (rd64 m (L - 64)) (rd64 m (L - 56)) (rd64 m (L - 48)) (rd64 m (L - 40)) (BitVec.ofNat 64 L) y0 ∧
          w = weakHash (rd64 m (L - 32)) (rd64 m (L - 24)) (rd64 m (L - 16)) (rd64 m (L - 8))
            (BitVec.ofNat 64 L * K.k1) K.k0 ∧
          r 0 = { x := rotr (z0 + rd64 m 0) 39 * K.k1, y := rotr y0 33 * K.k1, z := z0, v0 := v.1, v1 := v.2
                  w0 := w.1, w1 := w.2, iter := BitVec.ofNat 64 n, idx := 0 }) ∧
        (∀ i, i < n → ∃ (bs : Nat) (x y z : Word) (nv nw : Word × Word),
          bs = (if s.loopAddr = .fixed then 0 else 64 * i) ∧
          x = (rotr ((r i).x + (r i).y + (r i).v0 + rd64 m (bs + 16)) 37 * K.k1) ^^^ (r i).w1 ∧
          y = (rotr ((r i).y + (r i).v1 + rd64 m (bs + 48)) 42 * K.k1) ^^^ (r i).v0 ∧
          z = rotr ((r i).z ^^^ (r i).w0) 33 ∧
          nv = weakHash (rd64 m bs) (rd64 m (bs + 8)) (rd64 m (bs + 16)) (rd64 m (bs + 24))
            ((r i).v1 * K.k1) (x + (r i).w0) ∧
          nw = weakHash (rd64 m (bs + 32)) (rd64 m (bs + 40)) (rd64 m (bs + 48)) (rd64 m (bs + 56))
            (z + (r i).w1) y ∧
          r (i + 1) = { x := z, y := y, z := x, v0 := nv.1, v1 := nv.2, w0 := nw.1, w1 := nw.2
                        iter := (r i).iter - 1, idx := (r i).idx + 1 }) ∧
        (r n).iter = 0 ∧ (r n).idx = BitVec.ofNat 64 n ∧
        exec .hashLong s = .next (afterDone { s with long := r n }
          (combine K (combine K (r n).v0 (r n).w0 + shiftMix (r n).y * K.k1 + (r n).z)
            (combine K (r n).v1 (r n).w1 + (r n).x)) 6))

/-- R108, R106: HASH64 is the bucket routine of its length, completes for every L below 2^63, and reports the
route. That the working registers stay as they were for L at most 64, and what they keep after a longer hash, is the
model's choice (log 22): R33 and I12 give them any value between operations. -/
def Obligations.Hash64DispatchesByLength : Prop :=
  encodedOnlyBy .hash64 0x0000000000000001 ∧
  ∀ (s : State) (L : Nat), L = s.lenQ.toNat →
    (2 ^ 63 ≤ L → exec .hash64 s = .next (afterFault s .lenRange s.lenQ)) ∧
    (L ≤ 16 → exec .hash64 s = exec .hash0to16 s) ∧
    (17 ≤ L ∧ L ≤ 32 → exec .hash64 s = exec .hash17to32 s) ∧
    (33 ≤ L ∧ L ≤ 64 → exec .hash64 s = exec .hash33to64 s) ∧
    (65 ≤ L ∧ L < 2 ^ 63 → exec .hash64 s = exec .hashLong s) ∧
    (L < 2 ^ 63 → ∃ (lg : LongRegs) (r hi : Word),
      exec .hash64 s = .next (afterDone { s with long := lg } r hi) ∧
      exec .classify s = .next (afterDone s hi 0) ∧ (L ≤ 64 → lg = s.long) ∧ (L = 0 → r = 0x9ae16a3b2f90404f))

/-- The spec's own inference in R103 ("[derived: from rules R96, R97 and R101]"), property 1: for 65 ≤ L ≤ 128, FIXED
and ADVANCING give equal results. That the state keeps the same working registers too is the model's choice (log 22):
I12 gives them any value between operations. -/
def Obligations.LoopModesAgreeForOneIteration : Prop :=
  ∀ s : State, 65 ≤ s.lenQ.toNat → s.lenQ.toNat ≤ 128 →
    ∃ (lg : LongRegs) (r : Word),
      exec .hashLong { s with loopAddr := .fixed } =
        .next (afterDone { s with loopAddr := .fixed, long := lg } r 6) ∧
      exec .hashLong { s with loopAddr := .advancing } =
        .next (afterDone { s with loopAddr := .advancing, long := lg } r 6)

/-- The spec's own inference in R103, property 2: with FIXED, two buffers of equal length that agree on their first 64
and last 64 bytes hash equally. That the state keeps the same working registers too is the model's choice (log 22). -/
def Obligations.FixedLongRouteIgnoresMiddle : Prop :=
  ∀ s t : State, s.loopAddr = .fixed → t.loopAddr = .fixed → s.rom = t.rom → s.lenQ = t.lenQ →
    65 ≤ s.lenQ.toNat → s.lenQ.toNat < 2 ^ 63 →
    (∀ off, off < 64 → Memory.read s.ibuf off = Memory.read t.ibuf off) →
    (∀ off, s.lenQ.toNat - 64 ≤ off → off < s.lenQ.toNat → Memory.read s.ibuf off = Memory.read t.ibuf off) →
    ∃ (lg : LongRegs) (r : Word),
      exec .hash64 s = .next (afterDone { s with long := lg } r 6) ∧
      exec .hash64 t = .next (afterDone { t with long := lg } r 6)

/-! ### Frames and dependence -/

/-- R37, R58, R119: what every command leaves unchanged: LEN, OPA to OPF, the latched copies, K, LOOP_ADDR, every byte
of IBUF, and what is outside the block. RESULT and RESULT_HI change only on completion, FAULT_INFO only on a fault, the
working registers only in HASH64 and HASH_LONG on completion with L > 64. That a completion leaves FAULT and CAUSE
unchanged is read from R110, which does not name them (log 16); when the working registers change is log 22. -/
def Obligations.ExecFrame : Prop :=
  ∀ (i : Instr) (s t : State), exec i s = .next t →
    t.len = s.len ∧ t.ops = s.ops ∧ t.cmdQ = s.cmdQ ∧ t.lenQ = s.lenQ ∧ t.opsQ = s.opsQ ∧ t.loopAddr = s.loopAddr ∧
    t.rom = s.rom ∧ t.host = s.host ∧ t.turns = s.turns ∧ t.record = s.record ∧ t.ibuf = s.ibuf ∧
    (∀ off, Memory.read t.ibuf off = Memory.read s.ibuf off) ∧
    t.status.busy = false ∧ t.phase = .idle ∧
    (t.status.done = false → t.status.fault = true ∧ t.result = s.result ∧ t.resultHi = s.resultHi ∧ t.long = s.long) ∧
    (t.status.done = true → t.faultInfo = s.faultInfo ∧ t.status.fault = s.status.fault ∧ t.status.cause = s.status.cause) ∧
    ((i ≠ .hash64 ∧ i ≠ .hashLong) ∨ s.lenQ.toNat ≤ 64 → t.long = s.long)

/-- R11, R35: what a hash operation (and CLASSIFY) answers depends on L, the IBUF bytes below L, K and LOOP_ADDR, and on
nothing else. The rest is the model's own: what any other operation answers depends on those and the latched OPA to OPF
alone, and the working registers kept after the operation are a function of them too (log 22). -/
def Obligations.OperationDependsOnlyOnItsInput : Prop :=
  ∀ (i : Instr) (s t : State), i.wellFormed = true → SameInput s t →
    (s.opsQ = t.opsQ ∨ i ∈ [.hash64, .hash0to16, .hash17to32, .hash33to64, .hashLong, .classify]) →
    (∃ c info, exec i s = .next (afterFault s c info) ∧ exec i t = .next (afterFault t c info)) ∨
    (∃ (lg : Option LongRegs) (r hi : Word),
      exec i s = .next (afterDone { s with long := lg.getD s.long } r hi) ∧
      exec i t = .next (afterDone { t with long := lg.getD t.long } r hi))

/-! ### Issue, host accesses, reset -/

/-- R109: a write to CMD while BUSY = 0 issues. Here and below `hv` is what a `W` statement sends: a literal, or a host
variable with its value. -/
def Obligations.CommandWriteIssues : Prop :=
  ∀ (s : State) (hv : HostValue) (cmd : Word), valueOf s.host.vars hv = some cmd →
    hostMoves s (.write 0x00 64 hv) → s.status.busy = false →
    step s = .next { hostMoved s with
      status := { busy := true, done := false, fault := false, cause := .noFault }
      faultInfo := 0, cmdQ := cmd, lenQ := s.len, opsQ := s.ops, phase := .run }

/-- R111: a write to CMD while BUSY = 1 is ignored. -/
def Obligations.BusyCommandWriteIsIgnored : Prop :=
  ∀ (s : State) (hv : HostValue) (cmd : Word), valueOf s.host.vars hv = some cmd →
    hostMoves s (.write 0x00 64 hv) → s.status.busy = true →
    step s = .next (hostMoved s)

/-- R17, R121: a write to STATUS clears DONE by bit 1, and FAULT, CAUSE and FAULT_INFO by bit 2, and nothing else. That
it does so also while BUSY = 1 is the model's choice (log 25): R112 says that a STATUS write has no effect then, which
is the same on every state of `Inv`, where all four are clear. -/
def Obligations.StatusWriteClearsByOnes : Prop :=
  ∀ (s : State) (hv : HostValue) (v : Word), valueOf s.host.vars hv = some v → hostMoves s (.write 0x08 64 hv) →
    step s = .next { hostMoved s with
      status := { busy := s.status.busy
                  done := if v.getLsbD 1 then false else s.status.done
                  fault := if v.getLsbD 2 then false else s.status.fault
                  cause := if v.getLsbD 2 then .noFault else s.status.cause }
      faultInfo := if v.getLsbD 2 then 0 else s.faultInfo }

/-- R18, R22, R25: a write to LEN or to OPA to OPF stores the value, in every phase, and changes no latched copy. R64:
the value is the literal of the `W` statement, or what its host variable holds; that these two are all it may be is the
model's choice (log 27). -/
def Obligations.OperandWritesStore : Prop :=
  (∀ (vars : List (HostVar × Word)) (u : Word) (x : HostVar),
    valueOf vars (.lit u) = some u ∧ valueOf vars (.var x) = varValue vars x) ∧
  ∀ (s : State) (hv : HostValue) (v : Word), valueOf s.host.vars hv = some v →
    (hostMoves s (.write 0x10 64 hv) → step s = .next { hostMoved s with len := v }) ∧
    (hostMoves s (.write 0x30 64 hv) → step s = .next { hostMoved s with ops := { s.ops with opa := v } }) ∧
    (hostMoves s (.write 0x38 64 hv) → step s = .next { hostMoved s with ops := { s.ops with opb := v } }) ∧
    (hostMoves s (.write 0x40 64 hv) → step s = .next { hostMoved s with ops := { s.ops with opc := v } }) ∧
    (hostMoves s (.write 0x48 64 hv) → step s = .next { hostMoved s with ops := { s.ops with opd := v } }) ∧
    (hostMoves s (.write 0x50 64 hv) → step s = .next { hostMoved s with ops := { s.ops with ope := v } }) ∧
    (hostMoves s (.write 0x58 64 hv) → step s = .next { hostMoved s with ops := { s.ops with opf := v } })

/-- R15, R24: a write to FAULT_INFO, RESULT, RESULT_HI, CONFIG or a reserved offset is ignored. -/
def Obligations.ReadOnlyWritesAreIgnored : Prop :=
  ∀ (s : State) (off : Nat) (hv : HostValue) (v : Word), valueOf s.host.vars hv = some v →
    hostMoves s (.write off 64 hv) →
    (off = 0x18 ∨ off = 0x20 ∨ off = 0x28 ∨ off = 0x60 ∨ (0x68 ≤ off ∧ off ≤ 0xF8 ∧ off % 8 = 0)) →
    step s = .next (hostMoved s)

/-- R15, R16, R23, R24, R47: what a host read of each register returns; it changes nothing of the block. -/
def Obligations.RegisterReadsReturnValues : Prop :=
  ∀ (s : State) (off : Nat) (x : HostVar), hostMoves s (.read off 64 x) →
    (∀ w, varValue (setVar s.host.vars x w) x = some w) ∧
    (off = 0x00 → step s = .next (hostReadDone s x 0)) ∧
    (off = 0x10 → step s = .next (hostReadDone s x s.len)) ∧
    (off = 0x18 → step s = .next (hostReadDone s x s.faultInfo)) ∧
    (off = 0x20 → step s = .next (hostReadDone s x s.result)) ∧
    (off = 0x28 → step s = .next (hostReadDone s x s.resultHi)) ∧
    (off = 0x30 → step s = .next (hostReadDone s x s.ops.opa)) ∧
    (off = 0x38 → step s = .next (hostReadDone s x s.ops.opb)) ∧
    (off = 0x40 → step s = .next (hostReadDone s x s.ops.opc)) ∧
    (off = 0x48 → step s = .next (hostReadDone s x s.ops.opd)) ∧
    (off = 0x50 → step s = .next (hostReadDone s x s.ops.ope)) ∧
    (off = 0x58 → step s = .next (hostReadDone s x s.ops.opf)) ∧
    (off = 0x60 → step s = .next (hostReadDone s x (if s.loopAddr = .fixed then 0 else 1))) ∧
    (0x68 ≤ off ∧ off ≤ 0xF8 ∧ off % 8 = 0 → step s = .next (hostReadDone s x 0))

/-- R17, R116: what a host read of STATUS returns: BUSY [0], DONE [1], FAULT [2], CAUSE [11:8] with the codes of R116,
every other bit 0. -/
def Obligations.StatusReadShowsFields : Prop :=
  ∀ (s : State) (x : HostVar), hostMoves s (.read 0x08 64 x) →
    ∃ w : Word, step s = .next (hostReadDone s x w) ∧
      w.getLsbD 0 = s.status.busy ∧ w.getLsbD 1 = s.status.done ∧ w.getLsbD 2 = s.status.fault ∧
      w.extractLsb' 8 4 = (match s.status.cause with
        | .noFault => 0 | .illegalOp => 1 | .illegalCmd => 2 | .lenRange => 3 | .bucketRange => 4 | .readOob => 5) ∧
      w.extractLsb' 3 5 = 0 ∧ w.extractLsb' 12 52 = 0

/-- R43, R124: a host access of the window that is not 64 bits wide or not at a multiple of 8 is refused. Which
refusal an access of both kinds gets, and that both come before the check of the offset against 0x100, is the model's
choice (log 24). -/
def Obligations.OtherAccessesAreRefused : Prop :=
  ∀ (s : State) (off width : Nat) (hv : HostValue) (v : Word) (x : HostVar) (st : HostStmt),
    ((st = .write off width hv ∧ valueOf s.host.vars hv = some v) ∨ st = .read off width x) → hostMoves s st →
    (width ≠ 64 → step s = .refused .accessWidth) ∧
    (width = 64 → off % 8 ≠ 0 → step s = .refused .accessUnaligned)

/-- The model's choice (log 13), on R24's "Offsets at or above 0x100 are outside the block": an aligned 64-bit access
there stops with a fault of the model. -/
def Obligations.AccessBeyondWindowStops : Prop :=
  ∀ (s : State) (off : Nat) (hv : HostValue) (v : Word) (x : HostVar) (st : HostStmt),
    ((st = .write off 64 hv ∧ valueOf s.host.vars hv = some v) ∨ st = .read off 64 x) → hostMoves s st →
    off % 8 = 0 → 0x100 ≤ off → step s = .fault .outsideWindow

/-- R64: a host branch on a host variable goes to the label it names if its condition holds, else to the next
statement; `t.BUSY` is `t[0]`, `t.DONE` is `t[1]`, `t.FAULT` is `t[2]`, `t.CAUSE` is `t[11:8]`. Which conditions there
are is the model's choice (log 27), and so is that a label marked more than once is the first position that marks it
(log 9). -/
def Obligations.HostBranchFollowsCondition : Prop :=
  ∀ (s : State) (c : HostCond) (l : HostLabel) (p : Nat) (x : HostVar) (w : Word) (b : Bool),
    hostMoves s (.ifGoto c l) → varValue s.host.vars x = some w →
    s.host.program[p]? = some (.label l) → (∀ q, q < p → s.host.program[q]? ≠ some (.label l)) →
    ((c = .busy x ∧ b = w.getLsbD 0) ∨ (c = .done x ∧ b = w.getLsbD 1) ∨ (c = .fault x ∧ b = w.getLsbD 2) ∨
      (∃ code, c = .causeIs x code ∧ b = decide (w.extractLsb' 8 4 = code)) ∨ (∃ v, c = .equals x v ∧ b = decide (w = v))) →
    step s = .next (if b then { turnTaken s with host := { s.host with pos := p } } else hostMoved s)

/-- R38, R124, with the model's choices of which placements there are and what a change is (log 14, log 15): a
placement that changes an IBUF byte below L_q while BUSY = 1 is refused; any other below 2^63 writes exactly its bytes
and changes nothing else. -/
def Obligations.PlacingBytesRespectsFrozenInput : Prop :=
  ∀ (s : State) (off : Nat) (bytes : List Byte), Inv s → hostMoves s (.place off bytes) →
    off + bytes.length ≤ 2 ^ 63 →
    (s.status.busy = true → (∃ k b, bytes[k]? = some b ∧ off + k < s.lenQ.toNat ∧ Memory.read s.ibuf (off + k) ≠ b) →
      step s = .refused .ibufChangedWhileBusy) ∧
    (s.status.busy = false ∨
        (∀ k b, bytes[k]? = some b → off + k < s.lenQ.toNat → Memory.read s.ibuf (off + k) = b) →
      ∃ m : Memory, step s = .next { hostMoved s with ibuf := m } ∧ Memory.wf m = true ∧
        (∀ k b, bytes[k]? = some b → Memory.read m (off + k) = b) ∧
        (∀ a, a < off ∨ off + bytes.length ≤ a → Memory.read m a = Memory.read s.ibuf a))

/-- R133, R134: reset puts every host register and PHASE at its reset value in one step, also while BUSY = 1, with no
end step recorded, and touches neither IBUF, K nor CONFIG. -/
def Obligations.ResetAbandonsAndClears : Prop :=
  ∀ s : State, s.turns.head? = some .platform →
    ∃ t, step s = .next t ∧
      t.status = { busy := false, done := false, fault := false, cause := .noFault } ∧ t.phase = .idle ∧
      t.len = 0 ∧ t.ops = { opa := 0, opb := 0, opc := 0, opd := 0, ope := 0, opf := 0 } ∧
      t.result = 0 ∧ t.resultHi = 0 ∧ t.faultInfo = 0 ∧
      t.ibuf = s.ibuf ∧ t.rom = s.rom ∧ t.loopAddr = s.loopAddr ∧ t.record = s.record

/-- R34, R13: the reset values the spec gives. k0, k1, k3 and kMul are R13's defaults and LOOP_ADDR is R7's default
(log 4, log 5). -/
def Obligations.ResetStateHasGivenValues : Prop :=
  State.reset.status = { busy := false, done := false, fault := false, cause := .noFault } ∧
  State.reset.phase = .idle ∧ State.reset.len = 0 ∧
  State.reset.ops = { opa := 0, opb := 0, opc := 0, opd := 0, ope := 0, opf := 0 } ∧
  State.reset.result = 0 ∧ State.reset.resultHi = 0 ∧ State.reset.faultInfo = 0 ∧ State.reset.status.word = 0 ∧
  State.reset.rom.k2 = 0x9ae16a3b2f90404f ∧
  State.reset.rom = { k0 := 0xc3a5c85c97cb3127, k1 := 0xb492b66fbe98f273
                      k3 := 0xc949d7c7509e6557, kMul := 0x9ddfea08eb382d69 } ∧
  State.reset.loopAddr = .fixed

/-! ### Whole-machine rules -/

/-- The invariant holds at reset. -/
def Obligations.InvariantHoldsAtReset : Prop := Inv State.reset

/-- R17, R19, R26, R14, and the canonical IBUF: every step keeps the invariant. -/
def Obligations.EveryStepKeepsInvariant : Prop :=
  ∀ s t : State, Inv s → step s = .next t → Inv t

/-- R115, R122: FAULT is raised only in an end step: by a running block, which it leaves idle, with one more entry. -/
def Obligations.FaultsAreRaisedOnlyInEndSteps : Prop :=
  ∀ s t : State, step s = .next t → s.status.fault = false → t.status.fault = true →
    s.phase = .run ∧ blockMoves s ∧ t.phase = .idle ∧
      t.record = s.record ++ [{ cmd := s.cmdQ, outcome := .faulted t.status.cause t.faultInfo }] ∧
      t.result = s.result ∧ t.resultHi = s.resultHi

/-- R20, R21: RESULT and RESULT_HI change only at the completion of an operation, or at reset. -/
def Obligations.ResultsChangeOnlyAtCompletion : Prop :=
  ∀ s t : State, step s = .next t → (t.result ≠ s.result ∨ t.resultHi ≠ s.resultHi) →
    (blockMoves s ∧ t.status.done = true ∧
      t.record = s.record ++ [{ cmd := s.cmdQ, outcome := .completed t.result t.resultHi }]) ∨
    (s.turns.head? = some .platform ∧ t.result = 0 ∧ t.resultHi = 0)

/-- R14, R23: no step changes the constants or CONFIG. -/
def Obligations.ConstantsAndConfigNeverChange : Prop :=
  ∀ s t : State, step s = .next t → t.rom = s.rom ∧ t.loopAddr = s.loopAddr

/-- R37: the block never writes IBUF: a step that changes it is a host's IBUF statement. -/
def Obligations.OnlyTheHostWritesIbuf : Prop :=
  ∀ s t : State, step s = .next t → t.ibuf ≠ s.ibuf →
    ∃ off bytes, hostMoves s (.place off bytes) ∧ ¬ blockMoves s

/-- R25, R140: while an operation runs, only its end and reset change its latched operands, whatever the host writes. -/
def Obligations.LatchedOperandsStayWhileRunning : Prop :=
  ∀ s t : State, Inv s → step s = .next t → s.phase = .run → s.turns.head? ≠ some .platform →
    t.cmdQ = s.cmdQ ∧ t.lenQ = s.lenQ ∧ t.opsQ = s.opsQ ∧
      ∀ off, off < s.lenQ.toNat → Memory.read t.ibuf off = Memory.read s.ibuf off

/-- R114's termination, over the model's list of turns (log 6): every issued operation ends. With no reset among the
turns its end is recorded; only a stop of the host can come before it. -/
def Obligations.IssuedOperationEnds : Prop :=
  ∀ s : State, Inv s → s.phase = .run →
    ∃ k, k ≤ s.turns.length + 1 ∧
      ((∃ t, runSteps k s = .next t ∧ t.phase = .idle ∧
          (Agent.platform ∉ s.turns → ∃ o, t.record = s.record ++ [{ cmd := s.cmdQ, outcome := o }])) ∨
        (Agent.host ∈ s.turns ∧ ((∃ r, runSteps k s = .fault r) ∨ (∃ r, runSteps k s = .refused r))))

/-! ### More of the host -/

/-- R64: `GOTO` goes to its label, a label and a CHECK are passed over. That the label's place is the first position
that marks it is the model's choice (log 9). -/
def Obligations.HostGotoLabelAndCheckMove : Prop :=
  ∀ (s : State) (l : HostLabel) (p : Nat) (x : HostVar) (v : Word),
    (hostMoves s (.goto l) → marksFirst s l p → step s = .next (hostMovedTo s p)) ∧
    (hostMoves s (.label l) → step s = .next (hostMoved s)) ∧
    (hostMoves s (.check x v) → step s = .next (hostMoved s))

/-- The model's choice (log 9): a write or a branch that reads a host variable no R statement has set is refused, and so
is a jump to a label the program does not mark. -/
def Obligations.UnsetVariableOrMissingLabelIsRefused : Prop :=
  ∀ (s : State) (off width : Nat) (x : HostVar) (c : HostCond) (l : HostLabel) (w : Word),
    (varValue s.host.vars x = none → hostMoves s (.write off width (.var x)) →
      step s = .refused .hostVariableUnset) ∧
    (varValue s.host.vars (condVar c) = none → hostMoves s (.ifGoto c l) → step s = .refused .hostVariableUnset) ∧
    ((∀ p : Nat, s.host.program[p]? ≠ some (.label l)) →
      (hostMoves s (.goto l) → step s = .refused .hostLabelMissing) ∧
      (varValue s.host.vars (condVar c) = some w → condOf c w = true → hostMoves s (.ifGoto c l) →
        step s = .refused .hostLabelMissing))

/-- R65: each pseudo-statement's exact expansion, with a fresh label for each use: `fresh` gives no label twice and none
that the program as written names. That R65's variables are the numbers `varSt` and `varR` is log 9, and what DO sends
for a term that is no command (ROTR with an amount of 64 or more) is the model's choice (log 29). -/
def Obligations.PseudoStatementsExpandWithFreshLabels : Prop :=
  ∀ lines : List HostLine, ∃ fresh : Nat → HostLabel,
    (∀ j k, fresh j = fresh k → j = k) ∧
    (∀ k l c, HostLine.stmt (.label l) ∈ lines ∨ HostLine.stmt (.goto l) ∈ lines ∨ HostLine.stmt (.ifGoto c l) ∈ lines →
      fresh k ≠ l) ∧
    expandProgram lines = (lines.zipIdx.map fun p =>
      match p.1 with
      | .stmt st => [st]
      | .wait => [.label (fresh p.2), .read 0x08 64 varSt, .ifGoto (.busy varSt) (fresh p.2)]
      | .command i =>
        [.write 0x00 64 (.lit (encode i)), .label (fresh p.2), .read 0x08 64 varSt, .ifGoto (.busy varSt) (fresh p.2)]
      | .hash bytes =>
        [.place 0 bytes, .write 0x10 64 (.lit (BitVec.ofNat 64 bytes.length)), .write 0x00 64 (.lit 0x01),
          .label (fresh p.2), .read 0x08 64 varSt, .ifGoto (.busy varSt) (fresh p.2), .read 0x20 64 varR]
      | .clrf => [.write 0x08 64 (.lit 0x4)]
      | .clrd => [.write 0x08 64 (.lit 0x2)]).flatten

/-- The model's choices (log 14, log 28), on R36's offsets: a placement that ends beyond 2^63 stops with a fault of the
model, also when it would change a frozen byte of a running operation. -/
def Obligations.PlacementBeyondIbufStops : Prop :=
  ∀ (s : State) (off : Nat) (bytes : List Byte), hostMoves s (.place off bytes) → 2 ^ 63 < off + bytes.length →
    step s = .fault .outsideIbuf
end

