-- ==== Sys2Proof/Laws/State.lean ====
section
/-! SUPPORT. One lemma for each field of `State` and each named update of it, and for the fields of STATUS. -/

namespace Sys2Proof.Machine

section Issue
variable (s : State) (cmd : Word)
@[simp] theorem issue_status : (issue s cmd).status = s.status.onIssue := rfl
@[simp] theorem issue_len : (issue s cmd).len = s.len := rfl
@[simp] theorem issue_faultInfo : (issue s cmd).faultInfo = 0 := rfl
@[simp] theorem issue_result : (issue s cmd).result = s.result := rfl
@[simp] theorem issue_resultHi : (issue s cmd).resultHi = s.resultHi := rfl
@[simp] theorem issue_ops : (issue s cmd).ops = s.ops := rfl
@[simp] theorem issue_phase : (issue s cmd).phase = .run := rfl
@[simp] theorem issue_cmdQ : (issue s cmd).cmdQ = cmd := rfl
@[simp] theorem issue_lenQ : (issue s cmd).lenQ = s.len := rfl
@[simp] theorem issue_opsQ : (issue s cmd).opsQ = s.ops := rfl
@[simp] theorem issue_long : (issue s cmd).long = s.long := rfl
@[simp] theorem issue_loopAddr : (issue s cmd).loopAddr = s.loopAddr := rfl
@[simp] theorem issue_rom : (issue s cmd).rom = s.rom := rfl
@[simp] theorem issue_ibuf : (issue s cmd).ibuf = s.ibuf := rfl
@[simp] theorem issue_host : (issue s cmd).host = s.host := rfl
@[simp] theorem issue_turns : (issue s cmd).turns = s.turns := rfl
@[simp] theorem issue_record : (issue s cmd).record = s.record := rfl
end Issue

section Complete
variable (s : State) (r hi : Word)
@[simp] theorem complete_status : (complete s r hi).status = s.status.onCompletion := rfl
@[simp] theorem complete_len : (complete s r hi).len = s.len := rfl
@[simp] theorem complete_faultInfo : (complete s r hi).faultInfo = s.faultInfo := rfl
@[simp] theorem complete_result : (complete s r hi).result = r := rfl
@[simp] theorem complete_resultHi : (complete s r hi).resultHi = hi := rfl
@[simp] theorem complete_ops : (complete s r hi).ops = s.ops := rfl
@[simp] theorem complete_phase : (complete s r hi).phase = .idle := rfl
@[simp] theorem complete_cmdQ : (complete s r hi).cmdQ = s.cmdQ := rfl
@[simp] theorem complete_lenQ : (complete s r hi).lenQ = s.lenQ := rfl
@[simp] theorem complete_opsQ : (complete s r hi).opsQ = s.opsQ := rfl
@[simp] theorem complete_long : (complete s r hi).long = s.long := rfl
@[simp] theorem complete_loopAddr : (complete s r hi).loopAddr = s.loopAddr := rfl
@[simp] theorem complete_rom : (complete s r hi).rom = s.rom := rfl
@[simp] theorem complete_ibuf : (complete s r hi).ibuf = s.ibuf := rfl
@[simp] theorem complete_host : (complete s r hi).host = s.host := rfl
@[simp] theorem complete_turns : (complete s r hi).turns = s.turns := rfl
@[simp] theorem complete_record : (complete s r hi).record = s.record := rfl
end Complete

section FaultEntry
variable (s : State) (c : Cause) (info : Word)
@[simp] theorem faultEntry_status : (faultEntry s c info).status = s.status.onFault c := rfl
@[simp] theorem faultEntry_len : (faultEntry s c info).len = s.len := rfl
@[simp] theorem faultEntry_faultInfo : (faultEntry s c info).faultInfo = info := rfl
@[simp] theorem faultEntry_result : (faultEntry s c info).result = s.result := rfl
@[simp] theorem faultEntry_resultHi : (faultEntry s c info).resultHi = s.resultHi := rfl
@[simp] theorem faultEntry_ops : (faultEntry s c info).ops = s.ops := rfl
@[simp] theorem faultEntry_phase : (faultEntry s c info).phase = .idle := rfl
@[simp] theorem faultEntry_cmdQ : (faultEntry s c info).cmdQ = s.cmdQ := rfl
@[simp] theorem faultEntry_lenQ : (faultEntry s c info).lenQ = s.lenQ := rfl
@[simp] theorem faultEntry_opsQ : (faultEntry s c info).opsQ = s.opsQ := rfl
@[simp] theorem faultEntry_long : (faultEntry s c info).long = s.long := rfl
@[simp] theorem faultEntry_loopAddr : (faultEntry s c info).loopAddr = s.loopAddr := rfl
@[simp] theorem faultEntry_rom : (faultEntry s c info).rom = s.rom := rfl
@[simp] theorem faultEntry_ibuf : (faultEntry s c info).ibuf = s.ibuf := rfl
@[simp] theorem faultEntry_host : (faultEntry s c info).host = s.host := rfl
@[simp] theorem faultEntry_turns : (faultEntry s c info).turns = s.turns := rfl
@[simp] theorem faultEntry_record : (faultEntry s c info).record = s.record := rfl
end FaultEntry

section FaultExit
variable (s : State)
@[simp] theorem faultExit_status : (faultExit s).status = s.status.clearFault := rfl
@[simp] theorem faultExit_len : (faultExit s).len = s.len := rfl
@[simp] theorem faultExit_faultInfo : (faultExit s).faultInfo = 0 := rfl
@[simp] theorem faultExit_result : (faultExit s).result = s.result := rfl
@[simp] theorem faultExit_resultHi : (faultExit s).resultHi = s.resultHi := rfl
@[simp] theorem faultExit_ops : (faultExit s).ops = s.ops := rfl
@[simp] theorem faultExit_phase : (faultExit s).phase = s.phase := rfl
@[simp] theorem faultExit_cmdQ : (faultExit s).cmdQ = s.cmdQ := rfl
@[simp] theorem faultExit_lenQ : (faultExit s).lenQ = s.lenQ := rfl
@[simp] theorem faultExit_opsQ : (faultExit s).opsQ = s.opsQ := rfl
@[simp] theorem faultExit_long : (faultExit s).long = s.long := rfl
@[simp] theorem faultExit_loopAddr : (faultExit s).loopAddr = s.loopAddr := rfl
@[simp] theorem faultExit_rom : (faultExit s).rom = s.rom := rfl
@[simp] theorem faultExit_ibuf : (faultExit s).ibuf = s.ibuf := rfl
@[simp] theorem faultExit_host : (faultExit s).host = s.host := rfl
@[simp] theorem faultExit_turns : (faultExit s).turns = s.turns := rfl
@[simp] theorem faultExit_record : (faultExit s).record = s.record := rfl
end FaultExit

section DoneClear
variable (s : State)
@[simp] theorem doneClear_status : (doneClear s).status = s.status.clearDone := rfl
@[simp] theorem doneClear_len : (doneClear s).len = s.len := rfl
@[simp] theorem doneClear_faultInfo : (doneClear s).faultInfo = s.faultInfo := rfl
@[simp] theorem doneClear_result : (doneClear s).result = s.result := rfl
@[simp] theorem doneClear_resultHi : (doneClear s).resultHi = s.resultHi := rfl
@[simp] theorem doneClear_ops : (doneClear s).ops = s.ops := rfl
@[simp] theorem doneClear_phase : (doneClear s).phase = s.phase := rfl
@[simp] theorem doneClear_cmdQ : (doneClear s).cmdQ = s.cmdQ := rfl
@[simp] theorem doneClear_lenQ : (doneClear s).lenQ = s.lenQ := rfl
@[simp] theorem doneClear_opsQ : (doneClear s).opsQ = s.opsQ := rfl
@[simp] theorem doneClear_long : (doneClear s).long = s.long := rfl
@[simp] theorem doneClear_loopAddr : (doneClear s).loopAddr = s.loopAddr := rfl
@[simp] theorem doneClear_rom : (doneClear s).rom = s.rom := rfl
@[simp] theorem doneClear_ibuf : (doneClear s).ibuf = s.ibuf := rfl
@[simp] theorem doneClear_host : (doneClear s).host = s.host := rfl
@[simp] theorem doneClear_turns : (doneClear s).turns = s.turns := rfl
@[simp] theorem doneClear_record : (doneClear s).record = s.record := rfl
end DoneClear

section PlatformReset
variable (s : State)
@[simp] theorem platformReset_status : (platformReset s).status = Status.zero := rfl
@[simp] theorem platformReset_len : (platformReset s).len = 0 := rfl
@[simp] theorem platformReset_faultInfo : (platformReset s).faultInfo = 0 := rfl
@[simp] theorem platformReset_result : (platformReset s).result = 0 := rfl
@[simp] theorem platformReset_resultHi : (platformReset s).resultHi = 0 := rfl
@[simp] theorem platformReset_ops : (platformReset s).ops = Operands.zero := rfl
@[simp] theorem platformReset_phase : (platformReset s).phase = .idle := rfl
@[simp] theorem platformReset_cmdQ : (platformReset s).cmdQ = 0 := rfl
@[simp] theorem platformReset_lenQ : (platformReset s).lenQ = 0 := rfl
@[simp] theorem platformReset_opsQ : (platformReset s).opsQ = Operands.zero := rfl
@[simp] theorem platformReset_long : (platformReset s).long = LongRegs.zero := rfl
@[simp] theorem platformReset_loopAddr : (platformReset s).loopAddr = s.loopAddr := rfl
@[simp] theorem platformReset_rom : (platformReset s).rom = s.rom := rfl
@[simp] theorem platformReset_ibuf : (platformReset s).ibuf = s.ibuf := rfl
@[simp] theorem platformReset_host : (platformReset s).host = s.host := rfl
@[simp] theorem platformReset_turns : (platformReset s).turns = s.turns := rfl
@[simp] theorem platformReset_record : (platformReset s).record = s.record := rfl
end PlatformReset

section TakeTurn
variable (s : State)
@[simp] theorem takeTurn_status : (takeTurn s).status = s.status := rfl
@[simp] theorem takeTurn_len : (takeTurn s).len = s.len := rfl
@[simp] theorem takeTurn_faultInfo : (takeTurn s).faultInfo = s.faultInfo := rfl
@[simp] theorem takeTurn_result : (takeTurn s).result = s.result := rfl
@[simp] theorem takeTurn_resultHi : (takeTurn s).resultHi = s.resultHi := rfl
@[simp] theorem takeTurn_ops : (takeTurn s).ops = s.ops := rfl
@[simp] theorem takeTurn_phase : (takeTurn s).phase = s.phase := rfl
@[simp] theorem takeTurn_cmdQ : (takeTurn s).cmdQ = s.cmdQ := rfl
@[simp] theorem takeTurn_lenQ : (takeTurn s).lenQ = s.lenQ := rfl
@[simp] theorem takeTurn_opsQ : (takeTurn s).opsQ = s.opsQ := rfl
@[simp] theorem takeTurn_long : (takeTurn s).long = s.long := rfl
@[simp] theorem takeTurn_loopAddr : (takeTurn s).loopAddr = s.loopAddr := rfl
@[simp] theorem takeTurn_rom : (takeTurn s).rom = s.rom := rfl
@[simp] theorem takeTurn_ibuf : (takeTurn s).ibuf = s.ibuf := rfl
@[simp] theorem takeTurn_host : (takeTurn s).host = s.host := rfl
@[simp] theorem takeTurn_turns : (takeTurn s).turns = s.turns.tail := rfl
@[simp] theorem takeTurn_record : (takeTurn s).record = s.record := rfl
end TakeTurn

section NoteEnd
variable (s : State)
@[simp] theorem noteEnd_status : (noteEnd s).status = s.status := rfl
@[simp] theorem noteEnd_len : (noteEnd s).len = s.len := rfl
@[simp] theorem noteEnd_faultInfo : (noteEnd s).faultInfo = s.faultInfo := rfl
@[simp] theorem noteEnd_result : (noteEnd s).result = s.result := rfl
@[simp] theorem noteEnd_resultHi : (noteEnd s).resultHi = s.resultHi := rfl
@[simp] theorem noteEnd_ops : (noteEnd s).ops = s.ops := rfl
@[simp] theorem noteEnd_phase : (noteEnd s).phase = s.phase := rfl
@[simp] theorem noteEnd_cmdQ : (noteEnd s).cmdQ = s.cmdQ := rfl
@[simp] theorem noteEnd_lenQ : (noteEnd s).lenQ = s.lenQ := rfl
@[simp] theorem noteEnd_opsQ : (noteEnd s).opsQ = s.opsQ := rfl
@[simp] theorem noteEnd_long : (noteEnd s).long = s.long := rfl
@[simp] theorem noteEnd_loopAddr : (noteEnd s).loopAddr = s.loopAddr := rfl
@[simp] theorem noteEnd_rom : (noteEnd s).rom = s.rom := rfl
@[simp] theorem noteEnd_ibuf : (noteEnd s).ibuf = s.ibuf := rfl
@[simp] theorem noteEnd_host : (noteEnd s).host = s.host := rfl
@[simp] theorem noteEnd_turns : (noteEnd s).turns = s.turns := rfl
@[simp] theorem noteEnd_record : (noteEnd s).record = s.record ++ [{ cmd := s.cmdQ, outcome := endOutcome s }] := rfl
end NoteEnd

section HostNext
variable (s : State)
@[simp] theorem hostNext_status : (hostNext s).status = s.status := rfl
@[simp] theorem hostNext_len : (hostNext s).len = s.len := rfl
@[simp] theorem hostNext_faultInfo : (hostNext s).faultInfo = s.faultInfo := rfl
@[simp] theorem hostNext_result : (hostNext s).result = s.result := rfl
@[simp] theorem hostNext_resultHi : (hostNext s).resultHi = s.resultHi := rfl
@[simp] theorem hostNext_ops : (hostNext s).ops = s.ops := rfl
@[simp] theorem hostNext_phase : (hostNext s).phase = s.phase := rfl
@[simp] theorem hostNext_cmdQ : (hostNext s).cmdQ = s.cmdQ := rfl
@[simp] theorem hostNext_lenQ : (hostNext s).lenQ = s.lenQ := rfl
@[simp] theorem hostNext_opsQ : (hostNext s).opsQ = s.opsQ := rfl
@[simp] theorem hostNext_long : (hostNext s).long = s.long := rfl
@[simp] theorem hostNext_loopAddr : (hostNext s).loopAddr = s.loopAddr := rfl
@[simp] theorem hostNext_rom : (hostNext s).rom = s.rom := rfl
@[simp] theorem hostNext_ibuf : (hostNext s).ibuf = s.ibuf := rfl
@[simp] theorem hostNext_host : (hostNext s).host = { s.host with pos := s.host.pos + 1 } := rfl
@[simp] theorem hostNext_turns : (hostNext s).turns = s.turns := rfl
@[simp] theorem hostNext_record : (hostNext s).record = s.record := rfl
end HostNext

section HostSet
variable (s : State) (t : HostVar) (v : Word)
@[simp] theorem hostSet_status : (hostSet s t v).status = s.status := rfl
@[simp] theorem hostSet_len : (hostSet s t v).len = s.len := rfl
@[simp] theorem hostSet_faultInfo : (hostSet s t v).faultInfo = s.faultInfo := rfl
@[simp] theorem hostSet_result : (hostSet s t v).result = s.result := rfl
@[simp] theorem hostSet_resultHi : (hostSet s t v).resultHi = s.resultHi := rfl
@[simp] theorem hostSet_ops : (hostSet s t v).ops = s.ops := rfl
@[simp] theorem hostSet_phase : (hostSet s t v).phase = s.phase := rfl
@[simp] theorem hostSet_cmdQ : (hostSet s t v).cmdQ = s.cmdQ := rfl
@[simp] theorem hostSet_lenQ : (hostSet s t v).lenQ = s.lenQ := rfl
@[simp] theorem hostSet_opsQ : (hostSet s t v).opsQ = s.opsQ := rfl
@[simp] theorem hostSet_long : (hostSet s t v).long = s.long := rfl
@[simp] theorem hostSet_loopAddr : (hostSet s t v).loopAddr = s.loopAddr := rfl
@[simp] theorem hostSet_rom : (hostSet s t v).rom = s.rom := rfl
@[simp] theorem hostSet_ibuf : (hostSet s t v).ibuf = s.ibuf := rfl
@[simp] theorem hostSet_host : (hostSet s t v).host = { s.host with vars := setVar s.host.vars t v } := rfl
@[simp] theorem hostSet_turns : (hostSet s t v).turns = s.turns := rfl
@[simp] theorem hostSet_record : (hostSet s t v).record = s.record := rfl
end HostSet

@[simp] theorem onIssue_busy (st : Status) : (st.onIssue).busy = true := rfl
@[simp] theorem onIssue_done (st : Status) : (st.onIssue).done = false := rfl
@[simp] theorem onIssue_fault (st : Status) : (st.onIssue).fault = false := rfl
@[simp] theorem onIssue_cause (st : Status) : (st.onIssue).cause = .noFault := rfl
@[simp] theorem onCompletion_busy (st : Status) : (st.onCompletion).busy = false := rfl
@[simp] theorem onCompletion_done (st : Status) : (st.onCompletion).done = true := rfl
@[simp] theorem onCompletion_fault (st : Status) : (st.onCompletion).fault = st.fault := rfl
@[simp] theorem onCompletion_cause (st : Status) : (st.onCompletion).cause = st.cause := rfl
@[simp] theorem onFault_busy (st : Status) (c : Cause) : (st.onFault c).busy = false := rfl
@[simp] theorem onFault_done (st : Status) (c : Cause) : (st.onFault c).done = false := rfl
@[simp] theorem onFault_fault (st : Status) (c : Cause) : (st.onFault c).fault = true := rfl
@[simp] theorem onFault_cause (st : Status) (c : Cause) : (st.onFault c).cause = c := rfl
@[simp] theorem clearDone_busy (st : Status) : (st.clearDone).busy = st.busy := rfl
@[simp] theorem clearDone_done (st : Status) : (st.clearDone).done = false := rfl
@[simp] theorem clearDone_fault (st : Status) : (st.clearDone).fault = st.fault := rfl
@[simp] theorem clearDone_cause (st : Status) : (st.clearDone).cause = st.cause := rfl
@[simp] theorem clearFault_busy (st : Status) : (st.clearFault).busy = st.busy := rfl
@[simp] theorem clearFault_done (st : Status) : (st.clearFault).done = st.done := rfl
@[simp] theorem clearFault_fault (st : Status) : (st.clearFault).fault = false := rfl
@[simp] theorem clearFault_cause (st : Status) : (st.clearFault).cause = .noFault := rfl
@[simp] theorem statusZero_busy : Status.zero.busy = false := rfl
@[simp] theorem statusZero_done : Status.zero.done = false := rfl
@[simp] theorem statusZero_fault : Status.zero.fault = false := rfl
@[simp] theorem statusZero_cause : Status.zero.cause = .noFault := rfl

/-- The rules' completion and the model's are one. -/
theorem complete_eq_afterDone (s : State) (r hi : Word) : complete s r hi = afterDone s r hi := rfl

/-- The rules' fault entry and the model's are one. -/
theorem faultEntry_eq_afterFault (s : State) (c : Cause) (info : Word) :
    faultEntry s c info = afterFault s c info := rfl

end Sys2Proof.Machine
end

