-- ==== Sys2Proof/Laws/Decode.lean ====
section
/-! SUPPORT. What a decoded command says about its word (30_encoding.md R56 to R62). -/

namespace Sys2Proof

/-- A selected command has the OP it was selected by, and the given SHAMT if it is ROTR. -/
theorem selectOp_spec {op shamt : Nat} {i : Instr} (h : selectOp op shamt = some i) :
    opcode i = op ∧ (shamtField i = if op = 0x20 then shamt else 0) := by
  unfold selectOp at h
  split at h <;> cases h <;> exact ⟨rfl, rfl⟩

/-- Decoding, by cases of its result (R62). -/
theorem decode_command {w : Word} {i : Instr} (h : decode w = .command i) :
    selectOp (cmdOp w).toNat (cmdShamt w).toNat = some i ∧ cmdRsvd w = 0 ∧ (cmdOp w = 0x20 ∨ cmdShamt w = 0) := by
  unfold decode at h
  split at h
  · cases h
  · rename_i j hj
    split at h
    · cases h
    · rename_i hr
      split at h
      · cases h
      · rename_i hs
        cases h
        refine ⟨hj, by simpa using hr, ?_⟩
        by_cases ho : cmdOp w = 0x20
        · exact .inl ho
        · exact .inr (by_contra fun h0 => hs ⟨ho, h0⟩)

/-- A decoded command is well-formed: SHAMT has 6 bits (R59). -/
theorem decode_wellFormed {w : Word} {i : Instr} (h : decode w = .command i) : i.wellFormed = true := by
  obtain ⟨hs, -, -⟩ := decode_command h
  unfold selectOp at hs
  split at hs <;> cases hs <;> first | rfl | skip
  simp only [Instr.wellFormed, decide_eq_true_eq]
  have := (cmdShamt w).isLt
  omega

end Sys2Proof
end

