-- ==== Sys2Proof/Laws/Memory.lean ====
section
/-! SUPPORT. IBUF: read after write, the canonical form is kept, and which bytes a read uses (20_memory.md). -/

namespace Sys2Proof.Machine

@[simp] theorem read_nil (off : Nat) : Memory.read [] off = unplacedByte := rfl

theorem read_cons (k : Nat) (b : Byte) (rest : Memory) (off : Nat) :
    Memory.read ((k, b) :: rest) off = if off = k then b else Memory.read rest off := rfl

/-- An offset below every cell reads as unlisted. -/
theorem read_of_all_above {m : Memory} {off : Nat} (h : ∀ c ∈ m, off < c.1) : Memory.read m off = unplacedByte := by
  induction m with
  | nil => rfl
  | cons c rest ih =>
    obtain ⟨k, v⟩ := c
    have hk : off < k := h (k, v) (by simp)
    rw [read_cons, if_neg (by omega)]
    exact ih fun c hc => h c (by simp [hc])

theorem wf_cons {k : Nat} {v : Byte} {rest : Memory} :
    Memory.wf ((k, v) :: rest) = true ↔
      k < lenLimit ∧ v ≠ unplacedByte ∧ (∀ c ∈ rest, k < c.1) ∧ Memory.wf rest = true := by
  simp [Memory.wf, and_assoc]

/-- Every cell of a written memory is the written one or an old one. -/
theorem mem_write {m : Memory} {off : Nat} {b : Byte} {c : Host.Cell} (h : c ∈ Memory.write m off b) :
    c.1 = off ∨ c ∈ m := by
  induction m with
  | nil =>
    unfold Memory.write at h
    split at h
    · simp at h
    · simp only [List.mem_singleton] at h
      exact .inl (by rw [h])
  | cons d rest ih =>
    obtain ⟨k, v⟩ := d
    unfold Memory.write at h
    split at h
    · split at h
      · exact .inr h
      · rcases List.mem_cons.1 h with rfl | h
        · exact .inl rfl
        · exact .inr h
    · split at h
      · split at h
        · exact .inr (List.mem_cons_of_mem _ h)
        · rcases List.mem_cons.1 h with rfl | h
          · exact .inl rfl
          · exact .inr (List.mem_cons_of_mem _ h)
      · rcases List.mem_cons.1 h with rfl | h
        · exact .inr (by simp)
        · rcases ih h with h | h
          · exact .inl h
          · exact .inr (List.mem_cons_of_mem _ h)

/-- A write keeps the canonical form. -/
theorem write_wf {m : Memory} {off : Nat} (b : Byte) (hm : Memory.wf m = true) (ho : off < lenLimit) :
    Memory.wf (Memory.write m off b) = true := by
  induction m with
  | nil =>
    unfold Memory.write
    split
    · rfl
    · rename_i hb
      exact wf_cons.2 ⟨ho, hb, by simp, rfl⟩
  | cons d rest ih =>
    obtain ⟨k, v⟩ := d
    obtain ⟨hk, hv, hall, hrest⟩ := wf_cons.1 hm
    unfold Memory.write
    split
    · rename_i hlt
      split
      · exact hm
      · rename_i hb
        refine wf_cons.2 ⟨ho, hb, fun c hc => ?_, hm⟩
        rcases List.mem_cons.1 hc with rfl | hc
        · exact hlt
        · exact Nat.lt_trans hlt (hall c hc)
    · split
      · rename_i _ heq
        split
        · exact hrest
        · rename_i hb
          exact wf_cons.2 ⟨ho, hb, by rw [heq]; exact hall, hrest⟩
      · rename_i hlt hne
        refine wf_cons.2 ⟨hk, hv, fun c hc => ?_, ih hrest⟩
        rcases mem_write hc with h | h
        · omega
        · exact hall c h

/-- A write is read back, and leaves every other offset alone. -/
theorem read_write {m : Memory} (off : Nat) (b : Byte) (a : Nat) (hm : Memory.wf m = true) :
    Memory.read (Memory.write m off b) a = if a = off then b else Memory.read m a := by
  induction m with
  | nil =>
    unfold Memory.write
    split
    · rename_i hb; subst hb; simp
    · simp [read_cons]
  | cons d rest ih =>
    obtain ⟨k, v⟩ := d
    obtain ⟨-, -, hall, hrest⟩ := wf_cons.1 hm
    unfold Memory.write
    split
    · rename_i hlt
      split
      · rename_i hb
        split
        · rename_i ha
          rw [ha, hb]
          refine read_of_all_above fun c hc => ?_
          rcases List.mem_cons.1 hc with rfl | hc
          · exact hlt
          · exact Nat.lt_trans hlt (hall c hc)
        · rfl
      · simp [read_cons]
    · split
      · rename_i _ heq
        split
        · rename_i hb
          rw [read_cons]
          split
          · rename_i ha
            rw [ha, hb]
            exact read_of_all_above fun c hc => by rw [heq]; exact hall c hc
          · rename_i ha; rw [if_neg (by omega)]
        · rw [read_cons, read_cons]
          split
          · rfl
          · rename_i ha; rw [if_neg (by omega)]
      · rename_i _ hne
        rw [read_cons, read_cons, ih hrest]
        split
        · rename_i ha; rw [if_neg (by omega)]
        · rfl

/-- Placing bytes below 2^63 keeps the canonical form. -/
theorem placeBytes_wf {m : Memory} {off : Nat} {bytes : List Byte} (hm : Memory.wf m = true)
    (h : off + bytes.length ≤ lenLimit) : Memory.wf (placeBytes m off bytes) = true := by
  induction bytes generalizing m off with
  | nil => exact hm
  | cons b rest ih =>
    simp only [List.length_cons] at h
    exact ih (write_wf b hm (by omega)) (by omega)

/-- IBUF at reset is canonical. -/
theorem reset_ibuf_wf : Memory.wf State.reset.ibuf = true := rfl

/-- What IBUF reads after bytes are placed. -/
theorem read_placeBytes {m : Memory} {off : Nat} {bytes : List Byte} (a : Nat) (hm : Memory.wf m = true)
    (h : off + bytes.length ≤ lenLimit) :
    Memory.read (placeBytes m off bytes) a =
      if off ≤ a then (bytes[a - off]?).getD (Memory.read m a) else Memory.read m a := by
  induction bytes generalizing m off with
  | nil => simp [placeBytes]
  | cons b rest ih =>
    simp only [List.length_cons] at h
    rw [placeBytes, ih (write_wf b hm (by omega)) (by omega), read_write _ _ _ hm]
    rcases Nat.lt_trichotomy a off with h1 | h1 | h1
    · rw [if_neg (by omega), if_neg (by omega), if_neg (by omega)]
    · subst h1; simp
    · rw [if_pos (by omega), if_neg (by omega), if_pos (by omega)]
      obtain ⟨d, hd⟩ : ∃ d, a - off = d + 1 := ⟨a - off - 1, by omega⟩
      rw [hd, show a - (off + 1) = d by omega, List.getElem?_cons_succ]

@[simp] theorem memRead_zero (m : Memory) (off : Nat) : memRead m off 0 = 0 := rfl

theorem memRead_succ (m : Memory) (off n : Nat) :
    memRead m off (n + 1) = memRead m off n + ((Memory.read m (off + n)).setWidth 64 <<< (8 * n)) := rfl

/-- A read uses its own n bytes and no other. -/
theorem memRead_congr {m m' : Memory} {off n : Nat}
    (h : ∀ a, off ≤ a → a < off + n → Memory.read m a = Memory.read m' a) : memRead m off n = memRead m' off n := by
  induction n with
  | zero => rfl
  | succ n ih =>
    rw [memRead_succ, memRead_succ, ih fun a h1 h2 => h a h1 (by omega), h (off + n) (by omega) (by omega)]

end Sys2Proof.Machine
end

