-- ==== Sys2Proof/Laws/Ops.lean ====
section
/-! SUPPORT. What an operation's end can be: the checks, `endOp`, and every command's `exec` (R110, R119). -/

namespace Sys2Proof.Machine

@[simp] theorem endOp_some (s : State) (r : Raised) (done : State → State) :
    endOp s (some r) done = .next (faultEntry s r.cause r.info) := rfl

@[simp] theorem endOp_none (s : State) (done : State → State) : endOp s none done = .next (done s) := rfl

@[simp] theorem firstRaised_nil : firstRaised [] = none := rfl

@[simp] theorem firstRaised_some (r : Raised) (rest : List (Option Raised)) :
    firstRaised (some r :: rest) = some r := rfl

@[simp] theorem firstRaised_none (rest : List (Option Raised)) : firstRaised (none :: rest) = firstRaised rest := rfl

theorem lenCheck_of_ge {s : State} (h : 2 ^ 63 ≤ s.lenQ.toNat) :
    lenCheck s = some { cause := .lenRange, info := s.lenQ } :=
  if_pos (by simpa [lenLimit, inputLen] using h)

theorem lenCheck_of_lt {s : State} (h : s.lenQ.toNat < 2 ^ 63) : lenCheck s = none :=
  if_neg (by simpa [lenLimit, inputLen] using h)

@[simp] theorem bucketCheck_true (s : State) : bucketCheck s true = none := rfl

@[simp] theorem bucketCheck_false (s : State) :
    bucketCheck s false = some { cause := .bucketRange, info := s.lenQ } := rfl

theorem readCheck_of_lt {s : State} {n : Nat} (h : s.lenQ.toNat < s.opsQ.opa.toNat + n) :
    readCheck s n = some { cause := .readOob, info := s.opsQ.opa } :=
  if_pos h

theorem readCheck_of_le {s : State} {n : Nat} (h : s.opsQ.opa.toNat + n ≤ s.lenQ.toNat) : readCheck s n = none :=
  if_neg (by simpa [inputLen, readOffset] using h)

/-- A cause that an operation's checks raise; the other two are raised by decoding (R116). -/
def operandCause (c : Cause) : Prop := c = .lenRange ∨ c = .bucketRange ∨ c = .readOob

/-- What the checks raise names one of the operand causes. -/
theorem firstRaised_cause {checks : List (Option Raised)} {r : Raised}
    (hall : ∀ o ∈ checks, ∀ r, o = some r → operandCause r.cause) (h : firstRaised checks = some r) :
    operandCause r.cause := by
  induction checks with
  | nil => cases h
  | cons o rest ih =>
    cases o with
    | none => exact ih (fun o ho => hall o (List.mem_cons_of_mem _ ho)) h
    | some q =>
      cases h
      exact hall (some r) (by simp) r rfl

theorem lenCheck_cause {s : State} {r : Raised} (h : lenCheck s = some r) : operandCause r.cause := by
  unfold lenCheck at h
  split at h
  · cases h; exact .inl rfl
  · cases h

theorem bucketCheck_cause {s : State} {b : Bool} {r : Raised} (h : bucketCheck s b = some r) :
    operandCause r.cause := by
  cases b
  · cases h; exact .inr (.inl rfl)
  · cases h

theorem readCheck_cause {s : State} {n : Nat} {r : Raised} (h : readCheck s n = some r) :
    operandCause r.cause := by
  unfold readCheck at h
  split at h
  · cases h; exact .inr (.inr rfl)
  · cases h

/-- How an operation ended: in a fault of its operands, or completed with new working registers `lg` and results. -/
def EndedAs (s t : State) : Prop :=
  (∃ c info, operandCause c ∧ t = faultEntry s c info) ∨ (∃ lg r hi, t = complete { s with long := lg } r hi)

/-- An operation whose checks raise operand causes and which completes as `done` says. -/
theorem endOp_endedAs {s : State} {raised : Option Raised} {done : State → State}
    (hr : ∀ r, raised = some r → operandCause r.cause)
    (hd : ∃ lg r hi, done s = complete { s with long := lg } r hi) :
    ∃ t, endOp s raised done = .next t ∧ EndedAs s t := by
  cases raised with
  | some r => exact ⟨_, rfl, .inl ⟨_, _, hr r rfl, rfl⟩⟩
  | none => exact ⟨_, rfl, .inr hd⟩

/-- The same for an operation that checks L and then `o`. -/
theorem endOp_checked_endedAs {s : State} {o : Option Raised} {done : State → State}
    (ho : ∀ r, o = some r → operandCause r.cause) (hd : ∃ lg r hi, done s = complete { s with long := lg } r hi) :
    ∃ t, endOp s (firstRaised [lenCheck s, o]) done = .next t ∧ EndedAs s t := by
  refine endOp_endedAs (fun r hr => firstRaised_cause (fun o' ho' r h => ?_) hr) hd
  rcases List.mem_pair.1 ho' with rfl | rfl
  · exact lenCheck_cause h
  · exact ho r h

/-- The same for an operation that checks L alone. -/
theorem endOp_lenChecked_endedAs {s : State} {done : State → State}
    (hd : ∃ lg r hi, done s = complete { s with long := lg } r hi) :
    ∃ t, endOp s (firstRaised [lenCheck s]) done = .next t ∧ EndedAs s t := by
  refine endOp_endedAs (fun r hr => firstRaised_cause (fun o' ho' r h => ?_) hr) hd
  rw [List.mem_singleton.1 ho'] at h
  exact lenCheck_cause h

/-- Every well-formed command ends: `exec` answers a next state, in one of the two ways. -/
theorem exec_ends {i : Instr} (s : State) (hi : i.wellFormed = true) : ∃ t, exec i s = .next t ∧ EndedAs s t := by
  cases i with
  | rotr shamt =>
    have hs : shamt ≤ 63 := by simpa [Instr.wellFormed] using hi
    simp only [exec, execRotr, if_pos hs]
    exact endOp_endedAs (by simp) ⟨s.long, _, _, rfl⟩
  | shiftmix =>
    simp only [exec, execShiftmix]
    exact endOp_endedAs (by simp) ⟨s.long, _, _, rfl⟩
  | combine =>
    simp only [exec, execCombine]
    exact endOp_endedAs (by simp) ⟨s.long, _, _, rfl⟩
  | weakhash =>
    simp only [exec, execWeakhash]
    exact endOp_endedAs (by simp) ⟨s.long, _, _, rfl⟩
  | hash64 =>
    simp only [exec, execHash64]
    refine endOp_lenChecked_endedAs ?_
    by_cases h : inputLen s ≤ 64
    · exact ⟨s.long, _, _, if_pos h⟩
    · exact ⟨_, _, _, if_neg h⟩
  | classify =>
    simp only [exec, execClassify]
    exact endOp_lenChecked_endedAs ⟨s.long, _, _, rfl⟩
  | hash0to16 =>
    simp only [exec, execHash0to16]
    exact endOp_checked_endedAs (fun _ => bucketCheck_cause) ⟨s.long, _, _, rfl⟩
  | hash17to32 =>
    simp only [exec, execHash17to32]
    exact endOp_checked_endedAs (fun _ => bucketCheck_cause) ⟨s.long, _, _, rfl⟩
  | hash33to64 =>
    simp only [exec, execHash33to64]
    exact endOp_checked_endedAs (fun _ => bucketCheck_cause) ⟨s.long, _, _, rfl⟩
  | hashLong =>
    simp only [exec, execHashLong]
    exact endOp_checked_endedAs (fun _ => bucketCheck_cause) ⟨_, _, _, rfl⟩
  | rd8 =>
    simp only [exec, execRd8]
    exact endOp_checked_endedAs (fun _ => readCheck_cause) ⟨s.long, _, _, rfl⟩
  | rd32 =>
    simp only [exec, execRd32]
    exact endOp_checked_endedAs (fun _ => readCheck_cause) ⟨s.long, _, _, rfl⟩
  | rd64 =>
    simp only [exec, execRd64]
    exact endOp_checked_endedAs (fun _ => readCheck_cause) ⟨s.long, _, _, rfl⟩
  | weakhashWin =>
    simp only [exec, execWeakhashWin]
    exact endOp_checked_endedAs (fun _ => readCheck_cause) ⟨s.long, _, _, rfl⟩

/-- Whatever `exec` answers as a next state is one of the two ends. -/
theorem exec_cases {i : Instr} {s t : State} (h : exec i s = .next t) : EndedAs s t := by
  by_cases hw : i.wellFormed = true
  · obtain ⟨t', ht, he⟩ := exec_ends s hw
    rw [h] at ht
    cases ht
    exact he
  · cases i with
    | rotr shamt =>
      have hs : ¬ shamt ≤ 63 := by simpa [Instr.wellFormed] using hw
      simp [exec, execRotr, if_neg hs] at h
    | hash64 | hash0to16 | hash17to32 | hash33to64 | hashLong | classify | rd8 | rd32 | rd64 | shiftmix | combine
    | weakhash | weakhashWin => exact absurd rfl hw

end Sys2Proof.Machine
end

