-- ==== Sys2Proof/Laws/Host.lean ====
section
/-! SUPPORT. What a host's turn can do: every answer `next` is one of the named updates (R47, R64, R147). -/

namespace Sys2Proof.Machine

/-- What one host turn can do to the block and its surroundings. -/
inductive HostMove (s : State) : State → Prop where
  /-- Only the host's own position and variables change. -/
  | hostOnly (h : HostAgent) : HostMove s { s with host := h }
  /-- A write to the window. -/
  | window (off : Nat) (v : Word) : HostMove s (hostNext (writeWindow s off v))
  /-- Bytes placed where they may be, by an IBUF statement. -/
  | place (off : Nat) (bytes : List Byte) (hs : s.host.program[s.host.pos]? = some (.place off bytes)) (hb : off + bytes.length ≤ lenLimit)
      (hq : s.status.busy = false ∨ changesBelow s.ibuf s.lenQ.toNat off bytes = false) :
      HostMove s (hostNext { s with ibuf := placeBytes s.ibuf off bytes })

theorem windowAccess_next {off width : Nat} {go : Host.Outcome State Fault Refusal} {t : State}
    (h : windowAccess off width go = .next t) : width = 64 ∧ off % 8 = 0 ∧ off < 0x100 ∧ go = .next t := by
  unfold windowAccess at h
  split at h
  · cases h
  · split at h
    · cases h
    · split at h
      · cases h
      · exact ⟨by omega, by omega, by omega, h⟩

theorem hostGoto_next {s t : State} {l : HostLabel} (h : hostGoto s l = .next t) : HostMove s t := by
  unfold hostGoto at h
  split at h
  · cases h
  · cases h; exact .hostOnly _

/-- A label's position is the first that marks it. -/
theorem labelPos_eq_some_iff {l : HostLabel} {prog : List HostStmt} {p : Nat} :
    labelPos l prog = some p ↔ prog[p]? = some (.label l) ∧ ∀ q, q < p → prog[q]? ≠ some (.label l) := by
  induction prog generalizing p with
  | nil => simp [labelPos]
  | cons st rest ih =>
    unfold labelPos
    by_cases h : st = .label l
    · subst h
      cases p with
      | zero => simp
      | succ p => simpa using fun _ => ⟨0, by omega, rfl⟩
    · cases p with
      | zero => simp [h]
      | succ p =>
        simp only [if_neg h, Option.map_eq_some_iff, Nat.add_right_cancel_iff, exists_eq_right, ih,
          List.getElem?_cons_succ]
        constructor
        · rintro ⟨h1, h2⟩
          refine ⟨h1, fun q hq => ?_⟩
          cases q with
          | zero => simpa using h
          | succ q => exact h2 q (by omega)
        · rintro ⟨h1, h2⟩
          exact ⟨h1, fun q hq => h2 (q + 1) (by omega)⟩

/-- A label has no position exactly if nothing marks it. -/
theorem labelPos_eq_none_iff {l : HostLabel} {prog : List HostStmt} :
    labelPos l prog = none ↔ ∀ p : Nat, prog[p]? ≠ some (.label l) := by
  induction prog with
  | nil => simp [labelPos]
  | cons st rest ih =>
    unfold labelPos
    by_cases h : st = .label l
    · subst h
      simpa using ⟨0, rfl⟩
    · simp only [if_neg h, Option.map_eq_none_iff, ih]
      constructor
      · intro h1 p
        cases p with
        | zero => simpa using h
        | succ p => exact h1 p
      · exact fun h1 p => h1 (p + 1)

/-- Every label the program as written names lies below the fresh ones. -/
theorem labelOf_lt_freshLabel {lines : List HostLine} {ln : HostLine} {l : HostLabel} (hm : ln ∈ lines)
    (hl : ln.labelOf = some l) : l < freshLabel lines := by
  induction lines with
  | nil => cases hm
  | cons head rest ih =>
    rcases List.mem_cons.1 hm with rfl | hm
    · simp only [freshLabel, hl]
      exact Nat.lt_of_lt_of_le (Nat.lt_succ_self l) (Nat.le_max_left _ _)
    · have := ih hm
      unfold freshLabel
      split
      · exact this
      · exact Nat.lt_of_lt_of_le this (Nat.le_max_right _ _)

/-- Every host turn that answers a next state is one of the moves. -/
theorem hostTurn_cases {s t : State} (h : hostTurn s = .next t) : HostMove s t := by
  unfold hostTurn at h
  split at h
  · cases h; exact .hostOnly s.host
  · rename_i st hst
    cases st with
    | write off width v =>
      simp only [hostStmt] at h
      split at h
      · cases h
      · obtain ⟨-, -, -, h⟩ := windowAccess_next h
        cases h; exact .window _ _
    | read off width x =>
      obtain ⟨-, -, -, h⟩ := windowAccess_next h
      cases h; exact .hostOnly _
    | place off bytes =>
      simp only [hostStmt, hostPlace] at h
      split at h
      · cases h
      · split at h
        · cases h
        · rename_i h1 h2
          cases h
          refine .place off bytes hst (by omega) ?_
          simpa [Decidable.imp_iff_not_or] using h2
    | label l => cases h; exact .hostOnly _
    | ifGoto c l =>
      simp only [hostStmt] at h
      split at h
      · cases h
      · exact hostGoto_next h
      · cases h; exact .hostOnly _
    | goto l => exact hostGoto_next h
    | check x v => cases h; exact .hostOnly _

/-- What one write to the window can do. -/
theorem writeWindow_cases (s : State) (off : Nat) (v : Word) :
    writeWindow s off v = s ∨ (s.status.busy = false ∧ writeWindow s off v = issue s v) ∨
      writeWindow s off v = writeStatus s v ∨ (∃ len ops, writeWindow s off v = { s with len := len, ops := ops }) := by
  unfold writeWindow
  split
  · exact .inl rfl
  · unfold writeCmd
    split
    · exact .inl rfl
    · exact .inr (.inl ⟨by simp_all, rfl⟩)
  · exact .inr (.inr (.inl rfl))
  · exact .inr (.inr (.inr ⟨v, s.ops, rfl⟩))
  · exact .inl rfl
  · exact .inl rfl
  · exact .inl rfl
  · exact .inr (.inr (.inr ⟨s.len, _, rfl⟩))
  · exact .inr (.inr (.inr ⟨s.len, _, rfl⟩))
  · exact .inr (.inr (.inr ⟨s.len, _, rfl⟩))
  · exact .inr (.inr (.inr ⟨s.len, _, rfl⟩))
  · exact .inr (.inr (.inr ⟨s.len, _, rfl⟩))
  · exact .inr (.inr (.inr ⟨s.len, _, rfl⟩))
  · exact .inl rfl

/-- A write to STATUS as one update of three places. -/
theorem writeStatus_eq (s : State) (v : Word) :
    writeStatus s v =
      { s with
        status := { busy := s.status.busy
                    done := s.status.done && !v.getLsbD 1
                    fault := s.status.fault && !v.getLsbD 2
                    cause := if v.getLsbD 2 then .noFault else s.status.cause }
        faultInfo := if v.getLsbD 2 then 0 else s.faultInfo } := by
  unfold writeStatus
  cases v.getLsbD 1 <;> cases v.getLsbD 2 <;>
    simp [doneClear, faultExit, Status.clearDone, Status.clearFault]

end Sys2Proof.Machine
end

