-- ==== Sys2Proof/Laws/LongRoute.lean ====
section
/-! SUPPORT. The long route's loop runs ITER times and no more (42_weak_hash_long.md R96, R99). -/

namespace Sys2Proof.Machine

/-- The working registers after `k` iterations. -/
def longAfter (K : Constants) (mode : LoopAddr) (m : Memory) (r : LongRegs) : Nat → LongRegs
  | 0 => r
  | k + 1 => longIteration K mode m (longAfter K mode m r k)

theorem longAfter_comm (K : Constants) (mode : LoopAddr) (m : Memory) (r : LongRegs) (k : Nat) :
    longAfter K mode m (longIteration K mode m r) k = longAfter K mode m r (k + 1) := by
  induction k with
  | zero => rfl
  | succ k ih => rw [longAfter, ih]; rfl

@[simp] theorem longIteration_iter (K : Constants) (mode : LoopAddr) (m : Memory) (r : LongRegs) :
    (longIteration K mode m r).iter = r.iter - 1 := rfl

@[simp] theorem longIteration_idx (K : Constants) (mode : LoopAddr) (m : Memory) (r : LongRegs) :
    (longIteration K mode m r).idx = r.idx + 1 := rfl

/-- With ITER = n, the loop is n iterations. -/
theorem longLoop_eq_longAfter (K : Constants) (mode : LoopAddr) (m : Memory) (n : Nat) (hn : n < 2 ^ 64)
    (r : LongRegs) (h : r.iter = BitVec.ofNat 64 n) : longLoop K mode m n r = longAfter K mode m r n := by
  induction n generalizing r with
  | zero => rfl
  | succ n ih =>
    have hne : r.iter ≠ 0 := by
      rw [h]
      intro h0
      have := congrArg BitVec.toNat h0
      simp at this
      omega
    rw [longLoop, if_neg hne, ih (by omega) _ ?_, longAfter_comm]
    rw [longIteration_iter, h]
    apply BitVec.eq_of_toNat_eq
    simp
    omega

/-- ITER and IDX after `k` iterations. -/
theorem longAfter_counters (K : Constants) (mode : LoopAddr) (m : Memory) (r : LongRegs) (k : Nat) :
    (longAfter K mode m r k).iter = r.iter - BitVec.ofNat 64 k ∧
      (longAfter K mode m r k).idx = r.idx + BitVec.ofNat 64 k := by
  induction k with
  | zero => simp [longAfter]
  | succ k ih =>
    have hk : BitVec.ofNat 64 (k + 1) = BitVec.ofNat 64 k + 1 := by simp [BitVec.ofNat_add]
    rw [longAfter, longIteration_iter, longIteration_idx, ih.1, ih.2, hk]
    constructor
    · simp only [BitVec.sub_eq_add_neg, BitVec.neg_add, BitVec.add_assoc]
    · rw [BitVec.add_assoc]

@[simp] theorem longInit_iter (K : Constants) (m : Memory) (L : Nat) :
    (longInit K m L).iter = BitVec.ofNat 64 ((L - 1) / 64) := rfl

@[simp] theorem longInit_idx (K : Constants) (m : Memory) (L : Nat) : (longInit K m L).idx = 0 := rfl

/-- The long route is its initialisation and then floor((L − 1) / 64) iterations (R96, R99). -/
theorem longRun_eq (K : Constants) (mode : LoopAddr) (m : Memory) (L : Nat) (hL : L < 2 ^ 63) :
    longRun K mode m L = longAfter K mode m (longInit K m L) ((L - 1) / 64) := by
  have hn : (L - 1) / 64 < 2 ^ 64 := by omega
  have : (longInit K m L).iter.toNat = (L - 1) / 64 := by
    rw [longInit_iter, BitVec.toNat_ofNat, Nat.mod_eq_of_lt hn]
  rw [longRun, this]
  exact longLoop_eq_longAfter K mode m _ hn _ rfl

end Sys2Proof.Machine
end

