-- ==== Sys2Proof/Laws/PerInstr.lean ====
section
/-! SUPPORT. A statement for all commands, made per command: the family `OpField` says that the encoding of a
well-formed command holds its OP in bits [7:0], its SHAMT in bits [13:8] and 0 above (30_encoding.md R56, R63). -/

namespace Sys2Proof.Laws.OpField

/-- The three fields of the command word (R63: `OP | (SHAMT << 8)`, every other bit 0). -/
def Statement (i : Instr) : Prop :=
  i.wellFormed = true →
    cmdOp (encode i) = BitVec.ofNat 8 (opcode i) ∧ cmdShamt (encode i) = BitVec.ofNat 6 (shamtField i) ∧
      cmdRsvd (encode i) = 0

theorem hash64 : Statement .hash64 := fun _ => by decide
theorem hash0to16 : Statement .hash0to16 := fun _ => by decide
theorem hash17to32 : Statement .hash17to32 := fun _ => by decide
theorem hash33to64 : Statement .hash33to64 := fun _ => by decide
theorem hashLong : Statement .hashLong := fun _ => by decide
theorem classify : Statement .classify := fun _ => by decide
theorem rd8 : Statement .rd8 := fun _ => by decide
theorem rd32 : Statement .rd32 := fun _ => by decide
theorem rd64 : Statement .rd64 := fun _ => by decide
theorem rotr (shamt : Nat) : Statement (.rotr shamt) := fun h => by
  have hs : shamt ≤ 63 := by simpa [Instr.wellFormed] using h
  interval_cases shamt <;> decide
theorem shiftmix : Statement .shiftmix := fun _ => by decide
theorem combine : Statement .combine := fun _ => by decide
theorem weakhash : Statement .weakhash := fun _ => by decide
theorem weakhashWin : Statement .weakhashWin := fun _ => by decide

end Sys2Proof.Laws.OpField
end

