-- ==== Sys2Proof/Laws/Step.lean ====
section
/-! SUPPORT. What one step can do, once and for all (10_state.md R12, 43_dispatch_control.md R110, 70 R133). -/

namespace Sys2Proof.Machine

/-- The cause of a fault is not "no fault". -/
theorem operandCause_ne {c : Cause} (h : operandCause c) : c ≠ .noFault := by
  rcases h with h | h | h <;> rw [h] <;> decide

/-- How the block's end step ends: in a fault entry, or completed. -/
def BlockEnds (s t : State) : Prop :=
  (∃ c info, c ≠ .noFault ∧ t = faultEntry s c info) ∨ (∃ lg r hi, t = complete { s with long := lg } r hi)

/-- Every end step ends: it answers a next state, with one more entry in the record (R114). -/
theorem endStep_ends (s : State) : ∃ t, endStep s = .next (noteEnd t) ∧ BlockEnds s t := by
  unfold endStep runCommand
  cases hd : decode s.cmdQ with
  | illegalOp => exact ⟨_, rfl, .inl ⟨_, _, by decide, rfl⟩⟩
  | illegalCmd => exact ⟨_, rfl, .inl ⟨_, _, by decide, rfl⟩⟩
  | command i =>
    obtain ⟨t, ht, he⟩ := exec_ends s (decode_wellFormed hd)
    refine ⟨t, by simp only [ht], ?_⟩
    rcases he with ⟨c, info, hc, rfl⟩ | he
    · exact .inl ⟨c, info, operandCause_ne hc, rfl⟩
    · exact .inr he

/-- What one step that answers a next state is: reset, the block's end step, a host move, or a turn of an idle block,
which does nothing. -/
inductive StepMove (s : State) : State → Prop where
  | reset (h : s.turns.head? = some .platform) : StepMove s (platformReset (takeTurn s))
  | endOfOp (t : State) (hb : blockMoves s) (h : BlockEnds (takeTurn s) t) : StepMove s (noteEnd t)
  | idleBlock (hp : s.phase = .idle) : StepMove s (takeTurn s)
  | host (t : State) (ht : s.turns.head? = some .host ∨ (s.turns = [] ∧ s.phase = .idle))
      (h : HostMove (takeTurn s) t) : StepMove s t

theorem blockTurn_cases {s t : State} (hturn : s.turns = [] ∨ s.turns.head? = some .block)
    (h : blockTurn (takeTurn s) = .next t) : StepMove s t := by
  unfold blockTurn at h
  split at h
  · rename_i hp; cases h; exact .idleBlock hp
  · rename_i hp
    obtain ⟨u, hu, he⟩ := endStep_ends (takeTurn s)
    rw [hu] at h
    cases h
    exact .endOfOp u ⟨hp, hturn⟩ he

/-- Every step that answers a next state is one of the moves. -/
theorem step_cases {s t : State} (h : step s = .next t) : StepMove s t := by
  unfold step nextAgent at h
  cases ht : s.turns with
  | nil =>
    rw [ht] at h
    cases hp : s.phase with
    | run =>
      rw [hp] at h
      exact blockTurn_cases (.inl ht) h
    | idle =>
      rw [hp] at h
      exact .host t (.inr ⟨ht, hp⟩) (hostTurn_cases h)
  | cons a rest =>
    rw [ht] at h
    cases a with
    | block => exact blockTurn_cases (.inr (by rw [ht]; rfl)) h
    | host => exact .host t (.inl (by rw [ht]; rfl)) (hostTurn_cases h)
    | platform =>
      cases h
      exact .reset (by rw [ht]; rfl)

/-- When the block moves, the step is its end step. -/
theorem step_of_blockMoves {s : State} (h : blockMoves s) : step s = endStep (takeTurn s) := by
  obtain ⟨hp, ht⟩ := h
  have hb : nextAgent s = .block := by
    unfold nextAgent
    rcases ht with ht | ht
    · rw [ht, hp]
    · cases hs : s.turns with
      | nil => rw [hs] at ht; cases ht
      | cons a rest => rw [hs] at ht; cases ht; rfl
  unfold step
  rw [hb]
  show blockTurn (takeTurn s) = _
  unfold blockTurn
  rw [takeTurn_phase, hp]

/-- When the host moves, the step is its statement. -/
theorem step_of_hostMoves {s : State} {st : HostStmt} (h : hostMoves s st) :
    step s = hostStmt (takeTurn s) st := by
  obtain ⟨ht, hst⟩ := h
  have hb : nextAgent s = .host := by
    unfold nextAgent
    rcases ht with ht | ⟨ht, hp⟩
    · cases hs : s.turns with
      | nil => rw [hs] at ht; cases ht
      | cons a rest => rw [hs] at ht; cases ht; rfl
    · rw [ht, hp]
  unfold step
  rw [hb]
  show hostTurn (takeTurn s) = _
  unfold hostTurn
  rw [takeTurn_host, hst]

end Sys2Proof.Machine
end

