-- ==== Sys2Proof/Tests/Slice0.lean ====
section
/-! SUPPORT. Smoke tests of WellFormed and Decode, one-step tests of every command on the vectors of
spec/95_test_vectors.md (each names its row), and for every obligation with hypotheses a witness that meets them. -/

namespace Sys2Proof.Tests

open Sys2Proof.Machine

/-! ### WellFormed: the one check, SHAMT ≤ 63 (R59) -/

theorem test_wellFormed_accepts_63 : (Instr.rotr 63).wellFormed = true := by decide
theorem test_wellFormed_refuses_64 : (Instr.rotr 64).wellFormed = false := by decide

/-! ### Decode: the words of R57 and R63, RSVD (50 bits), SHAMT (6 bits), OP (8 bits) -/

theorem test_decode_HASH64 : decode (0#50 ++ 0b000000#6 ++ 0b00000001#8) = .command .hash64 := by decide
theorem test_decode_HASH_0TO16 : decode (0#50 ++ 0b000000#6 ++ 0b00000010#8) = .command .hash0to16 := by decide
theorem test_decode_HASH_17TO32 : decode (0#50 ++ 0b000000#6 ++ 0b00000011#8) = .command .hash17to32 := by decide
theorem test_decode_HASH_33TO64 : decode (0#50 ++ 0b000000#6 ++ 0b00000100#8) = .command .hash33to64 := by decide
theorem test_decode_HASH_LONG : decode (0#50 ++ 0b000000#6 ++ 0b00000101#8) = .command .hashLong := by decide
theorem test_decode_CLASSIFY : decode (0#50 ++ 0b000000#6 ++ 0b00000110#8) = .command .classify := by decide
theorem test_decode_RD8 : decode (0#50 ++ 0b000000#6 ++ 0b00010000#8) = .command .rd8 := by decide
theorem test_decode_RD32 : decode (0#50 ++ 0b000000#6 ++ 0b00010001#8) = .command .rd32 := by decide
theorem test_decode_RD64 : decode (0#50 ++ 0b000000#6 ++ 0b00010010#8) = .command .rd64 := by decide
theorem test_decode_ROTR_43 : decode (0#50 ++ 0b101011#6 ++ 0b00100000#8) = .command (.rotr 43) := by decide
theorem test_decode_SHIFTMIX : decode (0#50 ++ 0b000000#6 ++ 0b00100001#8) = .command .shiftmix := by decide
theorem test_decode_COMBINE : decode (0#50 ++ 0b000000#6 ++ 0b00100010#8) = .command .combine := by decide
theorem test_decode_WEAKHASH : decode (0#50 ++ 0b000000#6 ++ 0b00110000#8) = .command .weakhash := by decide
theorem test_decode_WEAKHASH_WIN : decode (0#50 ++ 0b000000#6 ++ 0b00110001#8) = .command .weakhashWin := by decide

/-- T-F1 to T-F9, the encoding rows. -/
theorem test_decode_illegal :
    decode 0x0000000000000000 = .illegalOp ∧ decode 0x00000000000000ff = .illegalOp ∧
    decode 0x0000000000004007 = .illegalOp ∧ decode 0x0000000000000121 = .illegalCmd ∧
    decode 0x8000000000000020 = .illegalCmd ∧ decode 0x0000000000004003 = .illegalCmd := by decide

theorem test_decodeTableWord :
    decodeTableWord 64 0x3f20 = some (.rotr 63) ∧ decodeTableWord 64 0x31 = some .weakhashWin ∧
    decodeTableWord 64 0x121 = none := by decide

theorem test_encode_ROTR_43 : encode (.rotr 43) = 0x0000000000002b20 := by decide

/-! ### One step of every command, from 95_test_vectors.md -/

/-- The bytes 00 01 02 …, `inc(n)` of 95_test_vectors.md. -/
def incBytes (n : Nat) : List Byte := (List.range n).map (BitVec.ofNat 8)

/-- The operand registers from a list, the missing ones 0. -/
def opList (ops : List Word) : Operands :=
  { opa := ops.getD 0 0, opb := ops.getD 1 0, opc := ops.getD 2 0, opd := ops.getD 3 0, ope := ops.getD 4 0
    opf := ops.getD 5 0 }

/-- After reset, with IBUF, LEN and the operands given, and RESULT and RESULT_HI marked. -/
def vectorState (bytes : List Byte) (len : Word) (ops : List Word) : State :=
  { State.reset with
    ibuf := placeBytes [] 0 bytes
    len := len
    ops := opList ops
    result := 0xabc
    resultHi := 0xdef }

/-- STATUS, RESULT, RESULT_HI and FAULT_INFO after the one step that runs the command word. -/
def outputs (s : State) (cmd : Nat) : Option (Word × Word × Word × Word) :=
  (nextState (step (s.withFetchWord 64 cmd))).map fun t => (t.status.word, t.result, t.resultHi, t.faultInfo)

/-- T-P3. -/
theorem test_RD8_unsigned : outputs (vectorState [0xff] 1 [0]) 0x10 = some (0x2, 0xff, 0, 0) := by decide
/-- T-P4. -/
theorem test_RD8_oob : outputs (vectorState (incBytes 16) 16 [16]) 0x10 = some (0x504, 0xabc, 0xdef, 0x10) := by decide
/-- T-P6. -/
theorem test_RD32_last : outputs (vectorState (incBytes 16) 16 [12]) 0x11 = some (0x2, 0x0f0e0d0c, 0, 0) := by decide
/-- T-P7. -/
theorem test_RD32_oob : outputs (vectorState (incBytes 16) 16 [13]) 0x11 = some (0x504, 0xabc, 0xdef, 0xd) := by decide
/-- T-P9a. -/
theorem test_RD64_unaligned :
    outputs (vectorState (incBytes 16) 16 [1]) 0x12 = some (0x2, 0x0807060504030201, 0, 0) := by decide
/-- T-P9c: the bound does not wrap. -/
theorem test_RD64_no_wrap :
    outputs (vectorState (incBytes 16) 16 [0xffffffffffffffff]) 0x12 =
      some (0x504, 0xabc, 0xdef, 0xffffffffffffffff) := by decide
/-- T-P15. -/
theorem test_ROTR_43 :
    outputs (vectorState [] 0 [0x0123456789abcdef]) 0x2b20 = some (0x2, 0xacf13579bde02468, 0, 0) := by decide
/-- T-P10. -/
theorem test_ROTR_0 :
    outputs (vectorState [] 0 [0x0123456789abcdef]) 0x20 = some (0x2, 0x0123456789abcdef, 0, 0) := by decide
/-- T-P23. -/
theorem test_SHIFTMIX :
    outputs (vectorState [] 0 [0x0123456789abcdef]) 0x21 = some (0x2, 0x0123456789abcfa9, 0, 0) := by decide
/-- T-F5. -/
theorem test_SHIFTMIX_shamt : outputs (vectorState [] 0 [7]) 0x121 = some (0x204, 0xabc, 0xdef, 0x121) := by decide
/-- T-P25. -/
theorem test_COMBINE_1_0 : outputs (vectorState [] 0 [1, 0]) 0x22 = some (0x2, 0xb91445ce692f0ce5, 0, 0) := by decide
/-- T-P26. -/
theorem test_COMBINE_0_1 : outputs (vectorState [] 0 [0, 1]) 0x22 = some (0x2, 0xf4ff80ec63c103d4, 0, 0) := by decide
/-- T-W5. -/
theorem test_WEAKHASH : outputs (vectorState [] 0 [1, 2, 3, 4, 5, 6]) 0x30 = some (0x2, 0xf, 0x0000800000b00006, 0) := by decide
/-- T-W4. -/
theorem test_WEAKHASH_seedB : outputs (vectorState [] 0 [0, 0, 0, 0, 0, 1]) 0x30 = some (0x2, 0, 0x0000080000000000, 0) := by decide
/-- T-W8. -/
theorem test_WEAKHASH_WIN_last :
    outputs (vectorState (incBytes 40) 40 [8, 5, 7]) 0x31 = some (0x2, 0x6c6864605c585455, 0x64234220dfefdea1, 0) := by
  decide +kernel
/-- T-W9. -/
theorem test_WEAKHASH_WIN_oob :
    outputs (vectorState (incBytes 40) 40 [9]) 0x31 = some (0x504, 0xabc, 0xdef, 0x9) := by decide +kernel
/-- CLASSIFY at L = 0x7fffffffffffffff. -/
theorem test_CLASSIFY_long : outputs (vectorState [] 0x7fffffffffffffff []) 0x06 = some (0x2, 6, 0, 0) := by decide
/-- T-D1. -/
theorem test_CLASSIFY_len_range :
    outputs (vectorState [] 0x8000000000000000 []) 0x06 = some (0x304, 0xabc, 0xdef, 0x8000000000000000) := by decide
/-- T-R2 (90_conflicts.md C1): L = 8 takes the 4-byte sub-route. -/
theorem test_HASH_0TO16_8 :
    outputs (vectorState (incBytes 8) 8 []) 0x02 = some (0x2, 0xbab32314ab07fa4e, 2, 0) := by decide
/-- T-R19. -/
theorem test_HASH_0TO16_17 : outputs (vectorState [] 17 []) 0x02 = some (0x404, 0xabc, 0xdef, 0x11) := by decide
/-- T-R21. -/
theorem test_HASH_17TO32_32 :
    outputs (vectorState (incBytes 32) 32 []) 0x03 = some (0x2, 0x40cfef3d008869dc, 4, 0) := by decide +kernel
/-- T-R20. -/
theorem test_HASH_17TO32_16 : outputs (vectorState [] 16 []) 0x03 = some (0x404, 0xabc, 0xdef, 0x10) := by decide
/-- T-R24. -/
theorem test_HASH_33TO64_64 :
    outputs (vectorState (incBytes 64) 64 []) 0x04 = some (0x2, 0xf7a2aca4d0a3fde1, 5, 0) := by decide +kernel
/-- T-R25. -/
theorem test_HASH_33TO64_65 : outputs (vectorState [] 65 []) 0x04 = some (0x404, 0xabc, 0xdef, 0x41) := by decide
/-- T-L4 with FIXED. -/
theorem test_HASH_LONG_129 :
    outputs (vectorState (incBytes 129) 129 []) 0x05 = some (0x2, 0xea0b558a8e324560, 6, 0) := by decide +kernel
/-- T-R26. -/
theorem test_HASH_LONG_64 : outputs (vectorState [] 64 []) 0x05 = some (0x404, 0xabc, 0xdef, 0x40) := by decide
/-- T-R10: "abc". -/
theorem test_HASH64_abc :
    outputs (vectorState [0x61, 0x62, 0x63] 3 []) 0x01 = some (0x2, 0x3a912f483a4ece31, 1, 0) := by decide
/-- T-L4 with ADVANCING. -/
theorem test_HASH64_129_advancing :
    outputs { vectorState (incBytes 129) 129 [] with loopAddr := .advancing } 0x01 =
      some (0x2, 0x3a49051ab10a968c, 6, 0) := by decide +kernel

/-- R65's HASH of "abc" after a line that uses label 4, and P3's `W OPA, t`. -/
theorem test_HASH_expansion :
    expandProgram [.stmt (.goto 4), .hash [0x61, 0x62, 0x63]] =
      [.goto 4, .place 0 [0x61, 0x62, 0x63], .write 0x10 64 (.lit 3), .write 0x00 64 (.lit 1), .label 6,
        .read 0x08 64 varSt, .ifGoto (.busy varSt) 6, .read 0x20 64 varR] := by decide
theorem test_write_of_host_variable :
    (nextState (step { State.reset with
      host := { program := [.write 0x30 64 (.var 3)], pos := 0, vars := [(3, 0xacf13579bde02468)] } })).map
        (fun t => t.ops.opa) = some 0xacf13579bde02468 := by decide

/-! ### States for the witnesses -/

/-- A running block with its latched command, length, OPA and IBUF. -/
def running (cmd len opa : Word) (ibuf : Memory) (turns : List Agent) (program : List HostStmt) : State :=
  { State.reset with
    status := { busy := true, done := false, fault := false, cause := .noFault }
    phase := .run
    cmdQ := cmd
    lenQ := len
    opsQ := { Operands.zero with opa := opa }
    ibuf := ibuf
    turns := turns
    host := { program := program, pos := 0, vars := [] } }

/-- An idle block and a host with its program. -/
def idle (program : List HostStmt) : State :=
  { State.reset with host := { program := program, pos := 0, vars := [] } }

theorem running_inv (cmd len opa : Word) (ibuf : Memory) (turns : List Agent) (program : List HostStmt)
    (h : Memory.wf ibuf = true) : Inv (running cmd len opa ibuf turns program) where
  ibufCanonical := h
  phaseBusy := by simp [running]
  legal := rfl
  causeFault := by simp [running]
  infoFault := fun _ => rfl
  constantsOdd := show romOdd defaultConstants = true by decide
  recordCauses := rfl

theorem idle_inv (program : List HostStmt) : Inv (idle program) where
  ibufCanonical := rfl
  phaseBusy := by simp [idle, State.reset, Status.zero]
  legal := rfl
  causeFault := by simp [idle, State.reset, Status.zero]
  infoFault := fun _ => rfl
  constantsOdd := show romOdd defaultConstants = true by decide
  recordCauses := rfl

theorem running_moves (cmd len opa : Word) (ibuf : Memory) :
    blockMoves (running cmd len opa ibuf [] []) := ⟨rfl, .inl rfl⟩

/-- An idle block and a host with its variables and program. -/
def idleWith (vars : List (HostVar × Word)) (program : List HostStmt) : State :=
  { State.reset with host := { program := program, pos := 0, vars := vars } }

theorem idleWith_hostMoves (vars : List (HostVar × Word)) (st : HostStmt) : hostMoves (idleWith vars [st]) st :=
  ⟨.inr ⟨rfl, rfl⟩, rfl⟩

theorem idle_hostMoves (st : HostStmt) : hostMoves (idle [st]) st := ⟨.inr ⟨rfl, rfl⟩, rfl⟩

theorem running_hostMoves (st : HostStmt) (len : Word) (ibuf : Memory) :
    hostMoves (running 1 len 0 ibuf [.host] [st]) st := ⟨.inl rfl, rfl⟩

/-- The length of a running state. -/
def runLen (len : Word) : Nat := (running 1 len 0 [] [] []).lenQ.toNat

/-- Every length given is in the range, its ends included. -/
def inRange (lens : List Word) (lo hi : Nat) : Bool := lens.all fun l => decide (lo ≤ runLen l ∧ runLen l ≤ hi)

/-- A read of `n` bytes at `opa` against the length. -/
def readFits (len opa : Word) (n : Nat) : Bool :=
  let s := running 0x10 len opa [] [] []
  decide (s.lenQ.toNat < 2 ^ 63) && decide (s.opsQ.opa.toNat + n ≤ s.lenQ.toNat)

/-- A read of `n` bytes at `opa` beyond a length in range. -/
def readMisses (len opa : Word) (n : Nat) : Bool :=
  let s := running 0x10 len opa [] [] []
  decide (s.lenQ.toNat < 2 ^ 63) && decide (s.lenQ.toNat < s.opsQ.opa.toNat + n)

/-! ### Witnesses -/

theorem witness_DecodeAndEncodeAgree :
    decode 0x3f20 = .command (.rotr 63) ∧ (Instr.rotr 63).wellFormed = true ∧ encode (.rotr 63) = 0x3f20 := by decide

theorem witness_DecodeIsMatchUnderMask :
    (0x3f20 : Word) &&& 0xFFFFFFFFFFFFC0FF = 0x0000000000000020 ∧ decode 0x3f20 = .command (.rotr 63) ∧
    (0x31 : Word) &&& 0xFFFFFFFFFFFFFFFF = 0x31 ∧ decode 0x31 = .command .weakhashWin := by decide

/-- The first and last value of each range of R61. -/
theorem witness_UnassignedOpFaultsIllegalOp :
    ∀ op ∈ [0x00, 0x07, 0x0F, 0x13, 0x1F, 0x23, 0x2F, 0x32, 0xFF],
      ∃ s : State, blockMoves s ∧ op = (s.cmdQ.extractLsb' 0 8).toNat ∧
        (op = 0x00 ∨ (0x07 ≤ op ∧ op ≤ 0x0F) ∨ (0x13 ≤ op ∧ op ≤ 0x1F) ∨ (0x23 ≤ op ∧ op ≤ 0x2F) ∨
          (0x32 ≤ op ∧ op ≤ 0xFF)) := by
  intro op hop
  refine ⟨running (BitVec.ofNat 64 op) 0 0 [] [] [], running_moves _ _ _ _, ?_⟩
  fin_cases hop <;> decide

/-- RSVD bit 14, RSVD bit 63, SHAMT 1 and SHAMT 63. -/
theorem witness_ReservedBitsFaultIllegalCmd :
    ∀ w ∈ [(0x4001 : Word), 0x8000000000000020, 0x121, 0x3f01],
      ∃ s : State, s.cmdQ = w ∧ blockMoves s ∧ (s.cmdQ.extractLsb' 0 8).toNat ∈ assignedOps ∧
        (s.cmdQ.extractLsb' 14 50 ≠ 0 ∨ (s.cmdQ.extractLsb' 0 8 ≠ 0x20 ∧ s.cmdQ.extractLsb' 8 6 ≠ 0)) := by
  intro w hw
  refine ⟨running w 0 0 [] [] [], rfl, running_moves _ _ _ _, ?_⟩
  fin_cases hw <;> decide

/-- A command that completes and one that faults. -/
theorem witness_StepRunsDecodedCommand :
    (blockMoves (running 0x2b20 0 1 [] [] []) ∧ decode (running 0x2b20 0 1 [] [] []).cmdQ = .command (.rotr 43)) ∧
    (blockMoves (running 0x10 0 1 [] [] []) ∧ decode (running 0x10 0 1 [] [] []).cmdQ = .command .rd8) :=
  ⟨⟨running_moves _ _ _ _, by decide⟩, ⟨running_moves _ _ _ _, by decide⟩⟩

/-- One state for each cause, and one with no fault due. -/
theorem witness_FirstDueFaultIsReported :
    (∀ p ∈ [((0x4007 : Word), (0 : Word), (0 : Word)), (0x4003, 5, 0), (0x12, 0x8000000000000000, 0), (0x05, 64, 0),
        (0x31, 31, 0), (0x01, 64, 0)],
      Inv (running p.1 p.2.1 p.2.2 [] [] []) ∧ blockMoves (running p.1 p.2.1 p.2.2 [] [] [])) ∧
    FaultDue 0x4007 0 0 .illegalOp 0x4007 ∧ FaultDue 0x4003 5 0 .illegalCmd 0x4003 ∧
    FaultDue 0x12 0x8000000000000000 0 .lenRange 0x8000000000000000 ∧ FaultDue 0x05 64 0 .bucketRange 64 ∧
    FaultDue 0x31 31 0 .readOob 0 :=
  ⟨fun _ _ => ⟨running_inv _ _ _ _ _ _ rfl, running_moves _ _ _ _⟩,
    .illegalOp (by decide), .illegalCmd (by decide) (by decide),
    .lenRange 0x12 (by decide) (by decide) (by decide) (by decide) (by decide),
    .bucketRange 0x05 (by decide) (by decide) (by decide) (by decide) (by unfold bucketBroken; decide),
    .readOob 0x31 (by decide) (by decide) (by decide) (by decide) (by unfold readBroken; decide)⟩

theorem witness_Hash64NeverFaults :
    Inv (running 1 0x7fffffffffffffff 0 [] [] []) ∧ blockMoves (running 1 0x7fffffffffffffff 0 [] [] []) ∧
    (running 1 0x7fffffffffffffff 0 [] [] []).cmdQ = 0x0000000000000001 ∧ runLen 0x7fffffffffffffff < 2 ^ 63 :=
  ⟨running_inv _ _ _ _ _ _ rfl, running_moves _ _ _ _, rfl, by decide⟩

theorem witness_MemReadIsLittleEndianSum :
    ∀ n ∈ [1, 4, 8], n = 1 ∨ n = 4 ∨ n = 8 := by decide

/-- L = 2^63; L = off + 0; L = off + 1. -/
theorem witness_Rd8ReadsOneByte :
    2 ^ 63 ≤ runLen 0x8000000000000000 ∧ readMisses 16 16 1 = true ∧ readFits 16 15 1 = true := by decide

/-- L = 2^63; L = off + 3; L = off + 4. -/
theorem witness_Rd32ReadsFourBytes :
    (∃ b : Nat → Nat, ∀ k, b k = (Memory.read (running 0x11 16 12 [] [] []).ibuf (12 + k)).toNat) ∧
    2 ^ 63 ≤ runLen 0x8000000000000000 ∧ readMisses 16 13 4 = true ∧ readFits 16 12 4 = true :=
  ⟨⟨_, fun _ => rfl⟩, by decide⟩

/-- L = 2^63; L = off + 7; L = off + 8; an offset whose sum would wrap. -/
theorem witness_Rd64ReadsEightBytes :
    (∃ b : Nat → Nat, ∀ k, b k = (Memory.read (running 0x12 16 8 [] [] []).ibuf (8 + k)).toNat) ∧
    2 ^ 63 ≤ runLen 0x8000000000000000 ∧ readMisses 16 9 8 = true ∧ readFits 16 8 8 = true ∧
    readMisses 16 0xffffffffffffffff 8 = true :=
  ⟨⟨_, fun _ => rfl⟩, by decide⟩

theorem witness_RotrMovesBits :
    (1 ≤ 1 ∧ 1 ≤ 63) ∧ (1 ≤ 63 ∧ 63 ≤ 63) ∧ (0 ≤ 63 ∧ 63 < 64) ∧ rotr (0x1 : Word) 1 = 0x8000000000000000 := by decide

theorem witness_RotrRotatesOperand :
    (0x4020 : Word).extractLsb' 0 8 = 0x20 ∧ (0x4020 : Word).extractLsb' 14 50 ≠ 0 ∧ 63 ≤ 63 ∧
    decode 0x4020 = .illegalCmd ∧ decode (0x20 ||| (BitVec.ofNat 64 63 <<< 8)) = .command (.rotr 63) := by decide

theorem witness_RotationBeyondFieldIsRefused : 64 ≤ 64 ∧ nextState (exec (.rotr 64) State.reset) = none := by decide

theorem witness_CombineFoldsOperands :
    ∃ a0 a1 b0 b1 : Word, a0 = (0 ^^^ 1) * defaultConstants.kMul ∧ a1 = a0 ^^^ (a0 >>> 47) ∧
      b0 = (1 ^^^ a1) * defaultConstants.kMul ∧ b1 = b0 ^^^ (b0 >>> 47) ∧
      b1 * defaultConstants.kMul = 0xf4ff80ec63c103d4 := ⟨_, _, _, _, rfl, rfl, rfl, rfl, by decide⟩

/-- Both ends of every clause's range. -/
theorem witness_ClassifyReportsRoute :
    2 ^ 63 ≤ runLen 0x8000000000000000 ∧ runLen 0 = 0 ∧ inRange [1, 3] 1 3 = true ∧
    inRange [4, 8] 4 8 = true ∧ inRange [9, 16] 9 16 = true ∧
    inRange [17, 32] 17 32 = true ∧ inRange [33, 64] 33 64 = true ∧
    inRange [65, 0x7fffffffffffffff] 65 (2 ^ 63 - 1) = true := by decide

theorem witness_Hash0to16RunsShortBucket :
    2 ^ 63 ≤ runLen 0x8000000000000000 ∧ inRange [17, 0x7fffffffffffffff] 17 (2 ^ 63 - 1) = true ∧
    runLen 0 = 0 ∧ inRange [1, 3] 1 3 = true ∧ inRange [4, 8] 4 8 = true ∧
    inRange [9, 16] 9 16 = true := by decide

theorem witness_Hash17to32RunsBucket :
    2 ^ 63 ≤ runLen 0x8000000000000000 ∧
    inRange [0, 16] 0 16 = true ∧ inRange [33, 0x7fffffffffffffff] 33 (2 ^ 63 - 1) = true ∧
    inRange [17, 32] 17 32 = true := by decide

theorem witness_Hash33to64RunsBucket :
    2 ^ 63 ≤ runLen 0x8000000000000000 ∧
    inRange [0, 32] 0 32 = true ∧ inRange [65, 0x7fffffffffffffff] 65 (2 ^ 63 - 1) = true ∧
    inRange [33, 64] 33 64 = true := by decide

theorem witness_WeakhashMixesSixWords :
    ∃ a1 a2 : Word, a1 = 5 + 1 ∧ a2 = a1 + 2 + 3 ∧ a2 + 4 = 0xf ∧ weakHash 1 2 3 4 5 6 = (0xf, 0x0000800000b00006) :=
  ⟨_, _, rfl, rfl, by decide, by decide⟩

/-- L = 2^63; L = off + 31; L = off + 32. -/
theorem witness_WeakhashWinMixesWindow :
    2 ^ 63 ≤ runLen 0x8000000000000000 ∧ readMisses 40 9 32 = true ∧ readFits 40 8 32 = true := by decide

theorem witness_HashLongRunsItsIterations :
    2 ^ 63 ≤ runLen 0x8000000000000000 ∧ inRange [0, 64] 0 64 = true ∧
    inRange [65, 0x7fffffffffffffff] 65 (2 ^ 63 - 1) = true := by decide

theorem witness_Hash64DispatchesByLength :
    2 ^ 63 ≤ runLen 0x8000000000000000 ∧ inRange [0, 16] 0 16 = true ∧
    inRange [17, 32] 17 32 = true ∧ inRange [33, 64] 33 64 = true ∧
    inRange [65, 0x7fffffffffffffff] 65 (2 ^ 63 - 1) = true := by decide

theorem witness_LoopModesAgreeForOneIteration :
    inRange [65, 128] 65 128 = true := by decide

/-- Two buffers of 200 bytes that differ at offset 100 alone (T-L6). -/
theorem witness_FixedLongRouteIgnoresMiddle :
    ∃ s t : State, s.loopAddr = .fixed ∧ t.loopAddr = .fixed ∧ s.rom = t.rom ∧ s.lenQ = t.lenQ ∧
      65 ≤ s.lenQ.toNat ∧ s.lenQ.toNat < 2 ^ 63 ∧
      (∀ off, off < 64 → Memory.read s.ibuf off = Memory.read t.ibuf off) ∧
      (∀ off, s.lenQ.toNat - 64 ≤ off → off < s.lenQ.toNat → Memory.read s.ibuf off = Memory.read t.ibuf off) ∧
      Memory.read s.ibuf 100 ≠ Memory.read t.ibuf 100 := by
  refine ⟨running 1 200 0 [] [] [], running 1 200 0 [(100, 1)] [] [], rfl, rfl, rfl, rfl, by decide, by decide,
    fun off h => ?_, fun off h _ => ?_, by decide⟩
  · simp only [running, read_cons, read_nil]
    rw [if_neg (by omega)]
  · have h' : 136 ≤ off := h
    simp only [running, read_cons, read_nil]
    rw [if_neg (by omega)]

/-- A completion, a fault, and HASH_LONG with L > 64. -/
theorem witness_ExecFrame :
    (∃ t, exec (.rotr 1) (running 0x120 0 1 [] [] []) = .next t ∧ t.status.done = true) ∧
    (∃ t, exec .rd8 (running 0x10 0 1 [] [] []) = .next t ∧ t.status.done = false) ∧
    (∃ t, exec .hashLong (running 0x05 65 0 [] [] []) = .next t ∧ t.status.done = true) :=
  ⟨⟨_, rfl, rfl⟩, ⟨_, rfl, rfl⟩, ⟨_, rfl, rfl⟩⟩

/-- Two states that differ in RESULT and in the IBUF byte at L_q; for HASH64, in OPA_q too. -/
theorem witness_OperationDependsOnlyOnItsInput :
    (∃ s t : State, (Instr.rd8).wellFormed = true ∧ SameInput s t ∧ s.opsQ = t.opsQ ∧ s.result ≠ t.result ∧
      Memory.read s.ibuf 3 ≠ Memory.read t.ibuf 3) ∧
    (∃ s t : State, (Instr.hash64).wellFormed = true ∧ SameInput s t ∧ s.opsQ ≠ t.opsQ) := by
  refine ⟨⟨running 0x10 3 2 [(2, 7)] [] [],
    { running 0x10 3 2 [(2, 7), (3, 9)] [] [] with result := 5 }, rfl, ⟨rfl, rfl, rfl, fun off h => ?_⟩, rfl,
    by decide, by decide⟩, running 1 3 0 [] [] [], running 1 3 9 [] [] [], rfl, ⟨rfl, rfl, rfl, fun _ _ => rfl⟩, by decide⟩
  have h' : off < 3 := h
  simp only [running, read_cons, read_nil]
  rw [if_neg (show ¬ off = 3 by omega)]

/-- A literal and a host variable. -/
theorem witness_CommandWriteIssues :
    ∀ hv ∈ [HostValue.lit 5, .var 3],
      valueOf (idleWith [(3, 5)] [.write 0x00 64 hv]).host.vars hv = some 5 ∧
      hostMoves (idleWith [(3, 5)] [.write 0x00 64 hv]) (.write 0x00 64 hv) ∧
      (idleWith [(3, 5)] [.write 0x00 64 hv]).status.busy = false := by
  intro hv h
  exact ⟨by fin_cases h <;> rfl, idleWith_hostMoves _ _, rfl⟩

theorem witness_BusyCommandWriteIsIgnored :
    valueOf (running 1 0 0 [] [.host] [.write 0x00 64 (.lit 6)]).host.vars (.lit 6) = some 6 ∧
    hostMoves (running 1 0 0 [] [.host] [.write 0x00 64 (.lit 6)]) (.write 0x00 64 (.lit 6)) ∧
    (running 1 0 0 [] [.host] [.write 0x00 64 (.lit 6)]).status.busy = true := ⟨rfl, running_hostMoves _ _ _, rfl⟩

theorem witness_StatusWriteClearsByOnes :
    ∀ hv ∈ [HostValue.lit 6, .var 3],
      valueOf (idleWith [(3, 6)] [.write 0x08 64 hv]).host.vars hv = some 6 ∧
      hostMoves (idleWith [(3, 6)] [.write 0x08 64 hv]) (.write 0x08 64 hv) := by
  intro hv h
  exact ⟨by fin_cases h <;> rfl, idleWith_hostMoves _ _⟩

theorem witness_OperandWritesStore :
    ∀ off ∈ [0x10, 0x30, 0x38, 0x40, 0x48, 0x50, 0x58],
      (valueOf (idle [.write off 64 (.lit 7)]).host.vars (.lit 7) = some 7 ∧
        hostMoves (idle [.write off 64 (.lit 7)]) (.write off 64 (.lit 7))) ∧
      (valueOf (idleWith [(3, 7)] [.write off 64 (.var 3)]).host.vars (.var 3) = some 7 ∧
        hostMoves (idleWith [(3, 7)] [.write off 64 (.var 3)]) (.write off 64 (.var 3))) :=
  fun _ _ => ⟨⟨rfl, idle_hostMoves _⟩, ⟨rfl, idleWith_hostMoves _ _⟩⟩

theorem witness_ReadOnlyWritesAreIgnored :
    ∀ off ∈ [0x18, 0x20, 0x28, 0x60, 0x68, 0xF8],
      valueOf (idleWith [(3, 7)] [.write off 64 (.var 3)]).host.vars (.var 3) = some 7 ∧
      hostMoves (idleWith [(3, 7)] [.write off 64 (.var 3)]) (.write off 64 (.var 3)) ∧
      (off = 0x18 ∨ off = 0x20 ∨ off = 0x28 ∨ off = 0x60 ∨ (0x68 ≤ off ∧ off ≤ 0xF8 ∧ off % 8 = 0)) := by
  intro off hoff
  exact ⟨rfl, idleWith_hostMoves _ _, by fin_cases hoff <;> decide⟩

theorem witness_RegisterReadsReturnValues :
    ∀ off ∈ [0x00, 0x10, 0x18, 0x20, 0x28, 0x30, 0x38, 0x40, 0x48, 0x50, 0x58, 0x60, 0x68, 0xF8],
      hostMoves (idle [.read off 64 0]) (.read off 64 0) := fun _ _ => idle_hostMoves _

theorem witness_StatusReadShowsFields : hostMoves (idle [.read 0x08 64 0]) (.read 0x08 64 0) := idle_hostMoves _

/-- A width that is not 64, an offset that is no multiple of 8, an access of both kinds, and one of each kind at an
offset above 0x100; a write of a literal, one of a host variable, and a read. -/
theorem witness_OtherAccessesAreRefused :
    ∀ p ∈ [(0x10, 32), (0xFC, 64), (0x14, 32), (0x108, 32), (0x104, 64)],
      (valueOf (idle [.write p.1 p.2 (.lit 7)]).host.vars (.lit 7) = some 7 ∧
        hostMoves (idle [.write p.1 p.2 (.lit 7)]) (.write p.1 p.2 (.lit 7))) ∧
      (valueOf (idleWith [(3, 7)] [.write p.1 p.2 (.var 3)]).host.vars (.var 3) = some 7 ∧
        hostMoves (idleWith [(3, 7)] [.write p.1 p.2 (.var 3)]) (.write p.1 p.2 (.var 3))) ∧
      hostMoves (idle [.read p.1 p.2 0]) (.read p.1 p.2 0) ∧ (p.2 ≠ 64 ∨ (p.2 = 64 ∧ p.1 % 8 ≠ 0)) := by
  intro p hp
  exact ⟨⟨rfl, idle_hostMoves _⟩, ⟨rfl, idleWith_hostMoves _ _⟩, idle_hostMoves _, by fin_cases hp <;> decide⟩

theorem witness_AccessBeyondWindowStops :
    (valueOf (idle [.write 0x100 64 (.lit 7)]).host.vars (.lit 7) = some 7 ∧
      hostMoves (idle [.write 0x100 64 (.lit 7)]) (.write 0x100 64 (.lit 7))) ∧
    (valueOf (idleWith [(3, 7)] [.write 0x100 64 (.var 3)]).host.vars (.var 3) = some 7 ∧
      hostMoves (idleWith [(3, 7)] [.write 0x100 64 (.var 3)]) (.write 0x100 64 (.var 3))) ∧
    hostMoves (idle [.read 0x100 64 0]) (.read 0x100 64 0) ∧ 0x100 % 8 = 0 ∧ 0x100 ≤ 0x100 :=
  ⟨⟨rfl, idle_hostMoves _⟩, ⟨rfl, idleWith_hostMoves _ _⟩, idle_hostMoves _, by decide, by decide⟩

/-- A `GOTO`, a label and a CHECK; the label marked twice. -/
theorem witness_HostGotoLabelAndCheckMove :
    (∃ s : State, hostMoves s (.goto 9) ∧ marksFirst s 9 1 ∧ s.host.program[2]? = some (.label 9)) ∧
    hostMoves (idle [.label 9]) (.label 9) ∧ hostMoves (idle [.check 0 7]) (.check 0 7) := by
  refine ⟨⟨idle [.goto 9, .label 9, .label 9], ⟨.inr ⟨rfl, rfl⟩, rfl⟩, ⟨rfl, fun q hq => ?_⟩, rfl⟩,
    idle_hostMoves _, idle_hostMoves _⟩
  interval_cases q
  simp [idle]

/-- An unset variable in a write and in a branch; a missing label of a `GOTO` and of a branch that is taken. -/
theorem witness_UnsetVariableOrMissingLabelIsRefused :
    (varValue (idle [.write 0x30 64 (.var 3)]).host.vars 3 = none ∧
      hostMoves (idle [.write 0x30 64 (.var 3)]) (.write 0x30 64 (.var 3))) ∧
    (varValue (idle [.ifGoto (.done 3) 9]).host.vars (condVar (.done 3)) = none ∧
      hostMoves (idle [.ifGoto (.done 3) 9]) (.ifGoto (.done 3) 9)) ∧
    ((∀ p : Nat, (idle [.goto 9]).host.program[p]? ≠ some (.label 9)) ∧ hostMoves (idle [.goto 9]) (.goto 9)) ∧
    ((∀ p : Nat, (idleWith [(3, 2)] [.ifGoto (.done 3) 9]).host.program[p]? ≠ some (.label 9)) ∧
      varValue (idleWith [(3, 2)] [.ifGoto (.done 3) 9]).host.vars (condVar (.done 3)) = some 2 ∧
      condOf (.done 3) 2 = true ∧
      hostMoves (idleWith [(3, 2)] [.ifGoto (.done 3) 9]) (.ifGoto (.done 3) 9)) :=
  ⟨⟨rfl, idle_hostMoves _⟩, ⟨rfl, idle_hostMoves _⟩, ⟨labelPos_eq_none_iff.1 rfl, idle_hostMoves _⟩,
    labelPos_eq_none_iff.1 rfl, rfl, by decide, idleWith_hostMoves _ _⟩

/-- A program with two uses of a pseudo-statement and the label 7 of its own, marked and gone to. -/
theorem witness_PseudoStatementsExpandWithFreshLabels :
    expandProgram [.stmt (.label 7), .command .rd8, .wait, .stmt (.goto 7)] =
      [.label 7, .write 0x00 64 (.lit 0x10), .label 9, .read 0x08 64 varSt, .ifGoto (.busy varSt) 9, .label 10,
        .read 0x08 64 varSt, .ifGoto (.busy varSt) 10, .goto 7] := by decide

/-- The first placement that ends beyond 2^63, idle; and one that would also change a frozen byte. -/
theorem witness_PlacementBeyondIbufStops :
    (hostMoves (idle [.place 9223372036854775808 [9]]) (.place 9223372036854775808 [9]) ∧
      2 ^ 63 < 9223372036854775808 + [(9 : Byte)].length) ∧
    (∃ s : State, hostMoves s (.place 9223372036854775807 [9, 9]) ∧ s.status.busy = true ∧
      9223372036854775807 < s.lenQ.toNat ∧ Memory.read s.ibuf 9223372036854775807 ≠ 9 ∧
      2 ^ 63 < 9223372036854775807 + [(9 : Byte), 9].length) :=
  ⟨⟨idle_hostMoves _, by decide⟩,
    running 1 0xffffffffffffffff 0 [] [.host] [.place 9223372036854775807 [9, 9]], running_hostMoves _ _ _, rfl,
    by decide, by decide, by decide⟩

/-- A host that has read STATUS = 0x504 (P4 of 95_test_vectors.md), at each kind of branch, taken and not. -/
theorem witness_HostBranchFollowsCondition :
    ∀ c ∈ [(HostCond.busy 0, false), (.done 0, false), (.fault 0, true), (.causeIs 0 5, true), (.causeIs 0 4, false),
        (.equals 0 0x504, true)],
      ∃ s : State, hostMoves s (.ifGoto c.1 9) ∧ varValue s.host.vars 0 = some 0x504 ∧
        s.host.program[2]? = some (.label 9) ∧ (∀ q, q < 2 → s.host.program[q]? ≠ some (.label 9)) ∧
        condHolds s.host.vars c.1 = some c.2 := by
  intro c hc
  refine ⟨{ State.reset with
    host := { program := [.ifGoto c.1 9, .label 8, .label 9], pos := 0, vars := [(0, 0x504)] } },
    ⟨.inr ⟨rfl, rfl⟩, rfl⟩, rfl, rfl, fun q hq => ?_, ?_⟩
  · interval_cases q <;> simp
  · fin_cases hc <;> decide

/-- While BUSY: the byte at L_q − 1 changed; the byte at L_q changed; the byte at L_q − 1 placed with its own value.
While idle: a byte placed at 2^63 − 1. -/
theorem witness_PlacingBytesRespectsFrozenInput :
    (∃ s : State, Inv s ∧ hostMoves s (.place 4 [9]) ∧ 4 + [(9 : Byte)].length ≤ 2 ^ 63 ∧ s.status.busy = true ∧
      ∃ k b, [(9 : Byte)][k]? = some b ∧ 4 + k < s.lenQ.toNat ∧ Memory.read s.ibuf (4 + k) ≠ b) ∧
    (∃ s : State, Inv s ∧ hostMoves s (.place 5 [9]) ∧ s.status.busy = true ∧ s.lenQ.toNat = 5) ∧
    (∃ s : State, Inv s ∧ hostMoves s (.place 4 [0]) ∧ s.status.busy = true ∧ s.lenQ.toNat = 5 ∧
      Memory.read s.ibuf 4 = 0) ∧
    (∃ s : State, Inv s ∧ hostMoves s (.place 9223372036854775807 [9]) ∧ s.status.busy = false ∧
      9223372036854775807 + [(9 : Byte)].length ≤ 2 ^ 63) :=
  ⟨⟨running 1 5 0 [] [.host] [.place 4 [9]], running_inv _ _ _ _ _ _ rfl, running_hostMoves _ _ _, by decide, rfl,
      0, 9, rfl, by decide, by decide⟩,
    ⟨running 1 5 0 [] [.host] [.place 5 [9]], running_inv _ _ _ _ _ _ rfl, running_hostMoves _ _ _, rfl, rfl⟩,
    ⟨running 1 5 0 [] [.host] [.place 4 [0]], running_inv _ _ _ _ _ _ rfl, running_hostMoves _ _ _, rfl, rfl, rfl⟩,
    ⟨idle [.place 9223372036854775807 [9]], idle_inv _, idle_hostMoves _, rfl, by decide⟩⟩

/-- Reset while BUSY and reset while idle. -/
theorem witness_ResetAbandonsAndClears :
    (running 1 5 0 [] [.platform] []).turns.head? = some .platform ∧ (running 1 5 0 [] [.platform] []).status.busy = true ∧
    ({ State.reset with turns := [.platform] } : State).turns.head? = some .platform := ⟨rfl, rfl, rfl⟩

/-- An end step, a host step and a reset from states of the invariant. -/
theorem witness_EveryStepKeepsInvariant :
    (∃ t, Inv (running 0x10 0 0 [] [] []) ∧ step (running 0x10 0 0 [] [] []) = .next t) ∧
    (∃ t, Inv (idle [.write 0x00 64 (.lit 1)]) ∧ step (idle [.write 0x00 64 (.lit 1)]) = .next t) ∧
    (∃ t, Inv (running 1 5 0 [] [.platform] []) ∧ step (running 1 5 0 [] [.platform] []) = .next t) :=
  ⟨⟨_, running_inv _ _ _ _ _ _ rfl, rfl⟩, ⟨_, idle_inv _, rfl⟩, ⟨_, running_inv _ _ _ _ _ _ rfl, rfl⟩⟩

theorem witness_FaultsAreRaisedOnlyInEndSteps :
    ∃ t, step (running 0x07 0 0 [] [] []) = .next t ∧ (running 0x07 0 0 [] [] []).status.fault = false ∧
      t.status.fault = true := ⟨_, rfl, rfl, rfl⟩

/-- A completion, and a reset of a block whose RESULT is not 0. -/
theorem witness_ResultsChangeOnlyAtCompletion :
    (∃ t, step (running 0x20 0 7 [] [] []) = .next t ∧ t.result ≠ (running 0x20 0 7 [] [] []).result) ∧
    (∃ t, step { State.reset with turns := [.platform], result := 7 } = .next t ∧ t.result ≠ 7) :=
  ⟨⟨_, rfl, by decide⟩, ⟨_, rfl, by decide⟩⟩

theorem witness_ConstantsAndConfigNeverChange :
    ∃ t, step { running 1 5 0 [] [.platform] [] with loopAddr := .advancing } = .next t := ⟨_, rfl⟩

theorem witness_OnlyTheHostWritesIbuf :
    ∃ t, step (idle [.place 0 [0x61]]) = .next t ∧ t.ibuf ≠ (idle [.place 0 [0x61]]).ibuf := ⟨_, rfl, by decide⟩

/-- The host writes LEN while an operation runs. -/
theorem witness_LatchedOperandsStayWhileRunning :
    ∃ s t : State, Inv s ∧ step s = .next t ∧ s.phase = .run ∧ s.turns.head? ≠ some .platform ∧ t.len ≠ s.len :=
  ⟨running 1 5 0 [] [.host] [.write 0x10 64 (.lit 9)], _, running_inv _ _ _ _ _ _ rfl, rfl, rfl, by decide, by decide⟩

/-- An operation that ends after a host turn, one that a reset abandons, and one whose host stops the run. -/
theorem witness_IssuedOperationEnds :
    (∃ t, Inv (running 0x20 0 7 [] [.host, .block] []) ∧ runSteps 2 (running 0x20 0 7 [] [.host, .block] []) = .next t ∧
      t.phase = .idle ∧ Agent.platform ∉ [Agent.host, Agent.block] ∧ t.record.length = 1) ∧
    (∃ t, Inv (running 0x20 0 7 [] [.platform] []) ∧ runSteps 1 (running 0x20 0 7 [] [.platform] []) = .next t ∧
      t.phase = .idle) ∧
    (∃ r, Inv (running 0x20 0 7 [] [.host] [.write 0x10 32 (.lit 9)]) ∧
      runSteps 1 (running 0x20 0 7 [] [.host] [.write 0x10 32 (.lit 9)]) = .refused r) :=
  ⟨⟨_, running_inv _ _ _ _ _ _ rfl, rfl, rfl, by decide, rfl⟩, ⟨_, running_inv _ _ _ _ _ _ rfl, rfl, rfl⟩,
    ⟨_, running_inv _ _ _ _ _ _ rfl, rfl⟩⟩

end Sys2Proof.Tests
end

section
/-! The result registers along a step (10_state.md R20, R21): what keeps them, and what a completion records. -/

namespace Sys2Proof.Machine

/-- A completed operation is recorded as completed with the results it wrote (R146). -/
@[simp] theorem endOutcome_complete (s : State) (r hi : Word) : endOutcome (complete s r hi) = .completed r hi := rfl

/-- A write to the window never reaches RESULT or RESULT_HI: both are read-only to the host (R15, R20, R21). -/
theorem writeWindow_results (s : State) (off : Nat) (v : Word) :
    (writeWindow s off v).result = s.result ∧ (writeWindow s off v).resultHi = s.resultHi := by
  rcases writeWindow_cases s off v with h | ⟨-, h⟩ | h | ⟨len, ops, h⟩
  · simp [h]
  · simp [h]
  · simp [h, writeStatus_eq]
  · simp [h]

/-- No move of the host changes RESULT or RESULT_HI. -/
theorem HostMove.results {s t : State} (h : HostMove s t) : t.result = s.result ∧ t.resultHi = s.resultHi := by
  cases h with
  | hostOnly agent => exact ⟨rfl, rfl⟩
  | window off v => exact writeWindow_results s off v
  | place off bytes hs hb hq => exact ⟨rfl, rfl⟩

/-- Settles O48, by the moves a step can make: only the block's completion and reset write the results. -/
theorem resultsChangeOnlyAtCompletion : Obligations.ResultsChangeOnlyAtCompletion := by
  intro s t hstep hchange
  cases step_cases hstep with
  | reset hturn => exact .inr ⟨hturn, rfl, rfl⟩
  | endOfOp u hblock hend =>
    rcases hend with ⟨c, info, -, rfl⟩ | ⟨lg, r, hi, rfl⟩
    · simp at hchange
    · exact .inl ⟨hblock, rfl, by simp⟩
  | idleBlock hidle => simp at hchange
  | host _ hturn hmove =>
    obtain ⟨hresult, hresultHi⟩ := hmove.results
    simp [hresult, hresultHi] at hchange

end Sys2Proof.Machine
end

section
/-! MemRead as a natural number (20_memory.md R41): n bytes make a value below 2^(8n), so up to eight of them are added
in 64 bits without a carry out. -/

namespace Sys2Proof.Machine

/-- The little-endian value of n bytes fits in 8n bits. -/
theorem littleEndianSum_lt (m : Memory) (off n : Nat) :
    ∑ i ∈ Finset.range n, (Memory.read m (off + i)).toNat * 2 ^ (8 * i) < 2 ^ (8 * n) := by
  induction n with
  | zero => simp
  | succ n ih =>
    have hbyte : (Memory.read m (off + n)).toNat + 1 ≤ 2 ^ 8 := (Memory.read m (off + n)).isLt
    calc ∑ i ∈ Finset.range (n + 1), (Memory.read m (off + i)).toNat * 2 ^ (8 * i)
        < 2 ^ (8 * n) + (Memory.read m (off + n)).toNat * 2 ^ (8 * n) := by
          rw [Finset.sum_range_succ]; exact Nat.add_lt_add_right ih _
      _ = ((Memory.read m (off + n)).toNat + 1) * 2 ^ (8 * n) := by ring
      _ ≤ 2 ^ 8 * 2 ^ (8 * n) := Nat.mul_le_mul_right _ hbyte
      _ = 2 ^ (8 * (n + 1)) := by ring

/-- One more byte, as natural numbers: its place is above the bytes below it, and nothing is added but it (mod 2^64). -/
theorem memRead_succ_toNat (m : Memory) (off n : Nat) :
    (memRead m off (n + 1)).toNat =
      ((memRead m off n).toNat + (Memory.read m (off + n)).toNat * 2 ^ (8 * n)) % 2 ^ 64 := by
  have hbyte : (Memory.read m (off + n)).toNat < 2 ^ 64 := by omega
  rw [memRead_succ, BitVec.toNat_add, BitVec.toNat_shiftLeft, BitVec.toNat_setWidth, Nat.mod_eq_of_lt hbyte,
    Nat.shiftLeft_eq, Nat.add_mod_mod]

/-- Up to eight bytes, MemRead is their little-endian sum: the word never wraps. -/
theorem memRead_toNat (m : Memory) (off : Nat) {n : Nat} (hn : n ≤ 8) :
    (memRead m off n).toNat = ∑ i ∈ Finset.range n, (Memory.read m (off + i)).toNat * 2 ^ (8 * i) := by
  induction n with
  | zero => rfl
  | succ n ih =>
    have hfits : 2 ^ (8 * (n + 1)) ≤ 2 ^ 64 := Nat.pow_le_pow_right (by decide) (by omega)
    rw [memRead_succ_toNat, ih (by omega), ← Finset.sum_range_succ]
    exact Nat.mod_eq_of_lt ((littleEndianSum_lt m off (n + 1)).trans_le hfits)

/-- Settles O9: the widths of R41 are at most eight bytes. -/
theorem memReadIsLittleEndianSum : Obligations.MemReadIsLittleEndianSum :=
  fun m off _ hn => memRead_toNat m off (by omega)

end Sys2Proof.Machine
end

section
/-! IBUF along a step (20_memory.md R37): the block's end, a reset and a write to the window leave it alone. -/

namespace Sys2Proof.Machine

/-- A write to the window never reaches IBUF. -/
@[simp] theorem writeWindow_ibuf (s : State) (off : Nat) (v : Word) : (writeWindow s off v).ibuf = s.ibuf := by
  rcases writeWindow_cases s off v with h | ⟨-, h⟩ | h | ⟨len, ops, h⟩
  · rw [h]
  · rw [h, issue_ibuf]
  · rw [h, writeStatus_eq]
  · rw [h]

/-- The block's end, in a fault or completed, leaves IBUF alone: "No operation writes a byte of IBUF" (R37). -/
theorem BlockEnds.ibuf {s t : State} (h : BlockEnds s t) : t.ibuf = s.ibuf := by
  rcases h with ⟨c, info, -, rfl⟩ | ⟨lg, r, hi, rfl⟩
  · exact faultEntry_ibuf s c info
  · exact complete_ibuf _ r hi

/-- A host move that changes IBUF is a statement that places bytes. -/
theorem HostMove.place_of_ibuf_ne {s t : State} (h : HostMove s t) (hne : t.ibuf ≠ s.ibuf) :
    ∃ off bytes, s.host.program[s.host.pos]? = some (.place off bytes) := by
  cases h with
  | hostOnly agent => exact absurd rfl hne
  | window off v => exact absurd (writeWindow_ibuf s off v) hne
  | place off bytes hs hb hq => exact ⟨off, bytes, hs⟩

/-- The host and the block do not move in one step. -/
theorem not_blockMoves_of_hostMoves {s : State} {st : HostStmt} (h : hostMoves s st) : ¬ blockMoves s := by
  rintro ⟨hrun, hblock⟩
  obtain ⟨hturn | ⟨-, hidle⟩, -⟩ := h
  · rcases hblock with hblock | hblock <;> simp [hblock] at hturn
  · simp [hidle] at hrun

/-- Settles O50, by the moves a step can make: only a host move that places bytes changes IBUF. -/
theorem onlyTheHostWritesIbuf : Obligations.OnlyTheHostWritesIbuf := by
  intro s t hstep hne
  cases step_cases hstep with
  | reset hturn => exact absurd rfl hne
  | endOfOp u hblock hend => exact absurd hend.ibuf hne
  | idleBlock hidle => exact absurd rfl hne
  | host _ hturn hmove =>
    obtain ⟨off, bytes, hstmt⟩ := hmove.place_of_ibuf_ne hne
    have hhost : hostMoves s (.place off bytes) := ⟨hturn, hstmt⟩
    exact ⟨off, bytes, hhost, not_blockMoves_of_hostMoves hhost⟩

end Sys2Proof.Machine
end

section
/-! The two rejections of the decoder (30_encoding.md R60, R61, R62), and the end step that enters a fault. -/

namespace Sys2Proof.Machine

/-- The opcode map selects a command for the assigned OP values and for no other (R57). -/
theorem isSome_selectOp_iff {op shamt : Nat} : (selectOp op shamt).isSome ↔ op ∈ assignedOps := by
  unfold selectOp
  split
  case h_15 => simp_all [assignedOps]
  all_goals simp [assignedOps]

/-- A word is ILLEGAL_OP exactly when its OP is unassigned, whatever its other bits are (R61). -/
theorem decode_eq_illegalOp_iff {w : Word} : decode w = .illegalOp ↔ (cmdOp w).toNat ∉ assignedOps := by
  rw [← isSome_selectOp_iff (shamt := (cmdShamt w).toNat)]
  unfold decode
  cases selectOp (cmdOp w).toNat (cmdShamt w).toNat with
  | none => simp
  | some i => dsimp only; split_ifs <;> simp

/-- A word is ILLEGAL_CMD exactly when its OP is assigned and RSVD is not 0, or SHAMT is not 0 outside ROTR (R60). -/
theorem decode_eq_illegalCmd_iff {w : Word} :
    decode w = .illegalCmd ↔
      (cmdOp w).toNat ∈ assignedOps ∧ (cmdRsvd w ≠ 0 ∨ (cmdOp w ≠ 0x20 ∧ cmdShamt w ≠ 0)) := by
  rw [← isSome_selectOp_iff (shamt := (cmdShamt w).toNat)]
  unfold decode
  cases selectOp (cmdOp w).toNat (cmdShamt w).toNat with
  | none => simp
  | some i =>
    dsimp only
    split_ifs with hrsvd hshamt
    · exact iff_of_true rfl ⟨rfl, .inl hrsvd⟩
    · exact iff_of_true rfl ⟨rfl, .inr hshamt⟩
    · exact iff_of_false nofun fun ⟨_, hbits⟩ => hbits.elim hrsvd hshamt

/-- A fault entry is recorded as faulted, with its cause and its FAULT_INFO (R146). -/
@[simp] theorem endOutcome_faultEntry (s : State) (c : Cause) (info : Word) :
    endOutcome (faultEntry s c info) = .faulted c info := rfl

/-- When the block moves and its command ends in a fault, the step is that fault entry, recorded (R119, R146). -/
theorem step_of_runCommand_faultEntry {s : State} {c : Cause} {info : Word} (h : blockMoves s)
    (hrun : runCommand (takeTurn s) = .next (faultEntry (takeTurn s) c info)) :
    step s = .next (withRecord (afterFault (turnTaken s) c info) s.cmdQ (.faulted c info)) := by
  rw [step_of_blockMoves h, endStep, hrun]
  simp only [noteEnd, endOutcome_faultEntry]
  rfl

/-- Settles O4: the five ranges hold no assigned OP, so the decoder answers ILLEGAL_OP. -/
theorem unassignedOpFaultsIllegalOp : Obligations.UnassignedOpFaultsIllegalOp := by
  intro s op hblock hop hrange
  have hunassigned : op ∉ assignedOps := by
    simp only [assignedOps, List.mem_cons, List.not_mem_nil, or_false]
    omega
  have hdecode : decode s.cmdQ = .illegalOp := decode_eq_illegalOp_iff.mpr (hop ▸ hunassigned)
  exact step_of_runCommand_faultEntry hblock (by simp [runCommand, hdecode])

/-- Settles O5: the hypotheses are what the decoder tests before it answers ILLEGAL_CMD. -/
theorem reservedBitsFaultIllegalCmd : Obligations.ReservedBitsFaultIllegalCmd := by
  intro s hblock hassigned hbits
  have hdecode : decode s.cmdQ = .illegalCmd := decode_eq_illegalCmd_iff.mpr ⟨hassigned, hbits⟩
  exact step_of_runCommand_faultEntry hblock (by simp [runCommand, hdecode])

end Sys2Proof.Machine
end

section
/-! What decoding to a command says about the word's three fields (30_encoding.md R56 to R63), and the only encoding of
a command without an immediate (R60). -/

namespace Sys2Proof.Machine

/-- A command word is its three fields: OP, SHAMT and RSVD cover its 64 bits (R56). -/
theorem eq_of_fields_eq {v w : Word} (hop : cmdOp v = cmdOp w) (hshamt : cmdShamt v = cmdShamt w)
    (hrsvd : cmdRsvd v = cmdRsvd w) : v = w := by
  simp only [cmdOp, cmdShamt, cmdRsvd, ← BitVec.toNat_inj, BitVec.extractLsb'_toNat,
    Nat.shiftRight_eq_div_pow] at hop hshamt hrsvd ⊢
  omega

/-- A word decodes to the command its OP and SHAMT select, if no test of R62 rejects it. -/
theorem decode_eq_command_iff {w : Word} {i : Instr} :
    decode w = .command i ↔
      selectOp (cmdOp w).toNat (cmdShamt w).toNat = some i ∧ cmdRsvd w = 0 ∧ (cmdOp w = 0x20 ∨ cmdShamt w = 0) := by
  refine ⟨decode_command, fun ⟨hselect, hrsvd, hshamt⟩ => ?_⟩
  have hshamtOk : ¬ (cmdOp w ≠ 0x20 ∧ cmdShamt w ≠ 0) := by tauto
  simp only [decode, hselect, if_neg (not_not.mpr hrsvd), if_neg hshamtOk]

/-- Outside ROTR a word that decodes is the one encoding of its command: with the same OP, any other word has a
reserved bit or a bit of SHAMT set (R60). -/
theorem encodedOnlyBy_of_decode {w : Word} {i : Instr} (hdecode : decode w = .command i) (hop : cmdOp w ≠ 0x20) :
    encodedOnlyBy i w := by
  obtain ⟨hselect, hrsvd, hshamt⟩ := decode_command hdecode
  have hassigned : (cmdOp w).toNat ∈ assignedOps := isSome_selectOp_iff.mp (Option.isSome_of_eq_some hselect)
  refine ⟨hdecode, fun v (hv : cmdOp v = cmdOp w) hne => ?_⟩
  rw [decode_eq_illegalCmd_iff, hv]
  refine ⟨hassigned, ?_⟩
  by_contra! hclear
  obtain ⟨hvrsvd, hvshamt⟩ := hclear
  refine hne (eq_of_fields_eq hv ?_ ?_)
  · rw [hvshamt hop, hshamt.resolve_left hop]
  · rw [hvrsvd, hrsvd]

end Sys2Proof.Machine
end

section
/-! RD8, RD32 and RD64 (40_primitives.md R69 to R71): one lemma for their checks and their ends, and the words they
read, byte by byte. -/

namespace Sys2Proof.Machine

/-- An operation that checks L and then a read of n bytes, and completes with the value `v` and RESULT_HI 0 (R118). -/
theorem endOp_checkedRead {s : State} {n : Nat} {done : State → State} {v : Word} (hdone : done s = afterDone s v 0) :
    (2 ^ 63 ≤ s.lenQ.toNat →
      endOp s (firstRaised [lenCheck s, readCheck s n]) done = .next (afterFault s .lenRange s.lenQ)) ∧
    (s.lenQ.toNat < 2 ^ 63 → s.lenQ.toNat < s.opsQ.opa.toNat + n →
      endOp s (firstRaised [lenCheck s, readCheck s n]) done = .next (afterFault s .readOob s.opsQ.opa)) ∧
    (s.lenQ.toNat < 2 ^ 63 → s.opsQ.opa.toNat + n ≤ s.lenQ.toNat →
      endOp s (firstRaised [lenCheck s, readCheck s n]) done = .next (afterDone s v 0)) := by
  refine ⟨fun hlen => ?_, fun hlen hoob => ?_, fun hlen hfits => ?_⟩
  · simp [lenCheck_of_ge hlen, faultEntry_eq_afterFault]
  · simp [lenCheck_of_lt hlen, readCheck_of_lt hoob, faultEntry_eq_afterFault]
  · simp [lenCheck_of_lt hlen, readCheck_of_le hfits, hdone]

/-- `rd8` is the byte at the offset, zero-extended (R66). -/
theorem rd8_eq (m : Memory) (off : Nat) : rd8 m off = (Memory.read m off).setWidth 64 := by
  simp [rd8, memRead_succ]

/-- Up to eight bytes, MemRead is the word of their little-endian sum (R41). -/
theorem memRead_eq_ofNat_sum {m : Memory} {off n : Nat} {b : Nat → Nat} (hn : n ≤ 8)
    (hb : ∀ k, b k = (Memory.read m (off + k)).toNat) :
    memRead m off n = BitVec.ofNat 64 (∑ k ∈ Finset.range n, b k * 2 ^ (8 * k)) := by
  simp only [hb, ← memRead_toNat m off hn, BitVec.ofNat_toNat, BitVec.setWidth_eq]

/-- `rd32` is the little-endian word of four bytes (R67). -/
theorem rd32_eq_ofNat {m : Memory} {off : Nat} {b : Nat → Nat} (hb : ∀ k, b k = (Memory.read m (off + k)).toNat) :
    rd32 m off = BitVec.ofNat 64 (b 0 + 2 ^ 8 * b 1 + 2 ^ 16 * b 2 + 2 ^ 24 * b 3) := by
  rw [rd32, memRead_eq_ofNat_sum (by decide) hb]
  simp [Finset.sum_range_succ, Nat.mul_comm]

/-- `rd64` is the little-endian word of eight bytes (R68). -/
theorem rd64_eq_ofNat {m : Memory} {off : Nat} {b : Nat → Nat} (hb : ∀ k, b k = (Memory.read m (off + k)).toNat) :
    rd64 m off = BitVec.ofNat 64 (b 0 + 2 ^ 8 * b 1 + 2 ^ 16 * b 2 + 2 ^ 24 * b 3 + 2 ^ 32 * b 4 + 2 ^ 40 * b 5 +
      2 ^ 48 * b 6 + 2 ^ 56 * b 7) := by
  rw [rd64, memRead_eq_ofNat_sum (by decide) hb]
  simp [Finset.sum_range_succ, Nat.mul_comm]

/-- Settles O11: the checks and ends of a read of one byte. -/
theorem rd8ReadsOneByte : Obligations.Rd8ReadsOneByte := by
  refine ⟨encodedOnlyBy_of_decode (by decide) (by decide), fun s => ?_⟩
  simp only [exec, execRd8]
  exact endOp_checkedRead (by rw [rd8_eq, complete_eq_afterDone, readOffset])

/-- Settles O12: the checks and ends of a read of four bytes. -/
theorem rd32ReadsFourBytes : Obligations.Rd32ReadsFourBytes := by
  refine ⟨encodedOnlyBy_of_decode (by decide) (by decide), fun s b hb => ?_⟩
  simp only [exec, execRd32]
  exact endOp_checkedRead (by rw [readOffset, rd32_eq_ofNat hb, complete_eq_afterDone])

/-- Settles O13: the checks and ends of a read of eight bytes. -/
theorem rd64ReadsEightBytes : Obligations.Rd64ReadsEightBytes := by
  refine ⟨encodedOnlyBy_of_decode (by decide) (by decide), fun s b hb => ?_⟩
  simp only [exec, execRd64]
  exact endOp_checkedRead (by rw [readOffset, rd64_eq_ofNat hb, complete_eq_afterDone])

end Sys2Proof.Machine
end

section
/-! ROTR, SHIFTMIX and COMBINE (40_primitives.md R73 to R77): they make no check, so each completes in every state. -/

namespace Sys2Proof.Machine

/-- The opcode map selects ROTR for OP 0x20 alone, with SHAMT as its amount (R57, R59). -/
theorem selectOp_eq_rotr_iff {op shamt k : Nat} :
    selectOp op shamt = some (.rotr k) ↔ op = 0x20 ∧ shamt = k := by
  refine ⟨fun h => ?_, fun ⟨hop, hshamt⟩ => by rw [hop, hshamt]; rfl⟩
  obtain ⟨hop, hshamt⟩ := selectOp_spec h
  have hop : op = 0x20 := hop.symm
  rw [if_pos hop] at hshamt
  exact ⟨hop, hshamt.symm⟩

/-- The words that decode to a rotation by k, by their fields. -/
theorem decode_eq_rotr_iff {w : Word} {k : Nat} :
    decode w = .command (.rotr k) ↔ cmdOp w = 0x20 ∧ (cmdShamt w).toNat = k ∧ cmdRsvd w = 0 := by
  have hop : (cmdOp w).toNat = 0x20 ↔ cmdOp w = 0x20 := BitVec.toNat_inj (y := 0x20)
  rw [decode_eq_command_iff, selectOp_eq_rotr_iff, hop]
  tauto

/-- The encodings of ROTR are those of the amounts that fit in SHAMT (R59, R63). -/
theorem decode_eq_rotr_iff_encode {w : Word} {k : Nat} :
    decode w = .command (.rotr k) ↔ k ≤ 63 ∧ w = encode (.rotr k) := by
  have hfields (hk : k ≤ 63) := Laws.OpField.rotr k (decide_eq_true hk)
  have hamount (hk : k ≤ 63) : (BitVec.ofNat 6 k).toNat = k := Nat.mod_eq_of_lt (by omega)
  rw [decode_eq_rotr_iff]
  constructor
  · rintro ⟨hop, rfl, hrsvd⟩
    have hk : (cmdShamt w).toNat ≤ 63 := Nat.le_of_lt_succ (cmdShamt w).isLt
    obtain ⟨hop', hshamt', hrsvd'⟩ := hfields hk
    refine ⟨hk, eq_of_fields_eq (hop.trans hop'.symm) ?_ (hrsvd.trans hrsvd'.symm)⟩
    rw [hshamt', shamtField, BitVec.ofNat_toNat, BitVec.setWidth_eq]
  · rintro ⟨hk, rfl⟩
    obtain ⟨hop, hshamt, hrsvd⟩ := hfields hk
    exact ⟨hop, by rw [hshamt, shamtField, hamount hk], hrsvd⟩

/-- Settles O15: its amounts are those that fit in SHAMT, and it makes no check. -/
theorem rotrRotatesOperand : Obligations.RotrRotatesOperand := by
  refine ⟨fun _ _ => decode_eq_rotr_iff_encode, fun w (hop : cmdOp w = 0x20) hrsvd => ?_, fun s k hk => ?_⟩
  · exact decode_eq_illegalCmd_iff.mpr ⟨by rw [hop]; decide, .inl hrsvd⟩
  · simp only [exec, execRotr, if_pos hk, endOp_none, complete_eq_afterDone]

/-- Settles O17: it makes no check and completes with `shift_mix` (R74). -/
theorem shiftmixMixesOperand : Obligations.ShiftmixMixesOperand := by
  refine ⟨encodedOnlyBy_of_decode (by decide) (by decide), fun s => ?_⟩
  simp only [exec, execShiftmix, endOp_none, complete_eq_afterDone, shiftMix]

/-- The compressor's three multiplications, in order (R76). -/
theorem combine_eq {K : Constants} {u v a0 a1 b0 b1 : Word} (ha0 : a0 = (u ^^^ v) * K.kMul)
    (ha1 : a1 = a0 ^^^ (a0 >>> 47)) (hb0 : b0 = (v ^^^ a1) * K.kMul) (hb1 : b1 = b0 ^^^ (b0 >>> 47)) :
    combine K u v = b1 * K.kMul := by
  subst ha0 ha1 hb0 hb1
  rfl

/-- Settles O19: it makes no check and completes with `combine`. -/
theorem combineFoldsOperands : Obligations.CombineFoldsOperands := by
  refine ⟨encodedOnlyBy_of_decode (by decide) (by decide), fun _ _ _ _ _ _ _ => combine_eq, fun s => ?_⟩
  simp only [exec, execCombine, endOp_none, complete_eq_afterDone]

end Sys2Proof.Machine
end

section
/-! HASH_0TO16, HASH_17TO32 and HASH_33TO64 run alone (41_short_routes.md R78 to R90): their two checks, and the value
of each bucket. -/

namespace Sys2Proof.Machine

/-! ### The checks of a routine run alone (R118) -/

section BucketChecks

variable {s : State} {p : Prop} [Decidable p] {done : State → State}

/-- Of the two checks L comes first, whatever the bucket. -/
theorem endOp_checkedBucket_of_ge (hlen : 2 ^ 63 ≤ s.lenQ.toNat) :
    endOp s (firstRaised [lenCheck s, bucketCheck s (decide p)]) done = .next (afterFault s .lenRange s.lenQ) := by
  simp [lenCheck_of_ge hlen, faultEntry_eq_afterFault]

theorem endOp_checkedBucket_of_outside (hlen : s.lenQ.toNat < 2 ^ 63) (hp : ¬ p) :
    endOp s (firstRaised [lenCheck s, bucketCheck s (decide p)]) done = .next (afterFault s .bucketRange s.lenQ) := by
  simp [lenCheck_of_lt hlen, hp, faultEntry_eq_afterFault]

theorem endOp_checkedBucket_of_inside (hlen : s.lenQ.toNat < 2 ^ 63) (hp : p) :
    endOp s (firstRaised [lenCheck s, bucketCheck s (decide p)]) done = .next (done s) := by
  simp [lenCheck_of_lt hlen, hp]

end BucketChecks

/-! ### The sub-routes of HASH_0TO16 and their route codes (R82, R105) -/

section SubRoutes

variable {K : Constants} {m : Memory} {L : Nat}

@[simp] theorem hash0to16_zero : hash0to16 K m 0 = K.k2 := rfl

theorem hash0to16_of_1to3 (hlo : 1 ≤ L) (hhi : L ≤ 3) : hash0to16 K m L = hash1to3 K m L := by
  rw [hash0to16, if_neg (by omega), if_neg (by omega), if_pos (by omega)]

theorem hash0to16_of_4to8 (hlo : 4 ≤ L) (hhi : L ≤ 8) : hash0to16 K m L = hash4to8 K m L := by
  rw [hash0to16, if_neg (by omega), if_pos hlo]

theorem hash0to16_of_ge_9 (hlo : 9 ≤ L) : hash0to16 K m L = hash9to16 K m L := by
  rw [hash0to16, if_pos (by omega)]

@[simp] theorem routeWord_zero : routeWord 0 = 0 := rfl

theorem routeWord_of_1to3 (hlo : 1 ≤ L) (hhi : L ≤ 3) : routeWord L = 1 := by
  rw [routeWord, route, if_neg (by omega), if_pos hhi, BitVec.ofNat_eq_ofNat]

theorem routeWord_of_4to8 (hlo : 4 ≤ L) (hhi : L ≤ 8) : routeWord L = 2 := by
  rw [routeWord, route, if_neg (by omega), if_neg (by omega), if_pos hhi, BitVec.ofNat_eq_ofNat]

theorem routeWord_of_9to16 (hlo : 9 ≤ L) (hhi : L ≤ 16) : routeWord L = 3 := by
  rw [routeWord, route, if_neg (by omega), if_neg (by omega), if_neg (by omega), if_pos hhi, BitVec.ofNat_eq_ofNat]

/-- R79's y fits in its 32 bits, so widening it gives the natural number itself. -/
theorem widened_y_eq_ofNat (a b : Byte) :
    (((a.setWidth 64).setWidth 32 + ((b.setWidth 64).setWidth 32 <<< 8) : BitVec 32)).setWidth 64 =
      BitVec.ofNat 64 (a.toNat + 256 * b.toNat) := by
  apply BitVec.eq_of_toNat_eq
  simp only [BitVec.toNat_setWidth, BitVec.toNat_add, BitVec.toNat_shiftLeft, BitVec.toNat_ofNat, Nat.shiftLeft_eq]
  omega

/-- R79's z fits in its 32 bits on every length of its sub-route. -/
theorem widened_z_eq_ofNat (c : Byte) (hhi : L ≤ 3) :
    (((lenWord L).setWidth 32 + ((c.setWidth 64).setWidth 32 <<< 2) : BitVec 32)).setWidth 64 =
      BitVec.ofNat 64 (L + 4 * c.toNat) := by
  apply BitVec.eq_of_toNat_eq
  simp only [lenWord, BitVec.toNat_setWidth, BitVec.toNat_add, BitVec.toNat_shiftLeft, BitVec.toNat_ofNat,
    Nat.shiftLeft_eq]
  omega

/-- The 1 to 3 formula over its three bytes as natural numbers (R79). -/
theorem hash1to3_eq (hhi : L ≤ 3) :
    hash1to3 K m L =
      shiftMix ((BitVec.ofNat 64 ((Memory.read m 0).toNat + 256 * (Memory.read m (L / 2)).toNat) * K.k2) ^^^
        (BitVec.ofNat 64 (L + 4 * (Memory.read m (L - 1)).toNat) * K.k3)) * K.k2 := by
  simp only [hash1to3, rd8_eq, widened_y_eq_ofNat, widened_z_eq_ofNat _ hhi, Nat.shiftRight_one]

end SubRoutes

/-- HASH_0TO16 over the latched length: the two checks, `hash_0to16` and the route code (R88). -/
theorem exec_hash0to16 (s : State) :
    exec .hash0to16 s = endOp s (firstRaised [lenCheck s, bucketCheck s (decide (s.lenQ.toNat ≤ 16))])
      fun s => afterDone s (hash0to16 s.rom s.ibuf s.lenQ.toNat) (routeWord s.lenQ.toNat) := rfl

/-- Settles O21: the two checks, then one clause for each sub-route. -/
theorem hash0to16RunsShortBucket : Obligations.Hash0to16RunsShortBucket := by
  refine ⟨encodedOnlyBy_of_decode (by decide) (by decide), ?_⟩
  rintro s L m K rfl rfl rfl
  rw [exec_hash0to16]
  refine ⟨endOp_checkedBucket_of_ge, fun hlen hout => ?_, fun hzero => ?_, fun ⟨hlo, hhi⟩ => ?_, fun ⟨hlo, hhi⟩ => ?_,
    fun ⟨hlo, hhi⟩ => ?_⟩
  · exact endOp_checkedBucket_of_outside hlen (by omega)
  all_goals rw [endOp_checkedBucket_of_inside (by omega) (by omega)]
  · rw [hzero, hash0to16_zero, routeWord_zero, Constants.k2]
  · rw [hash0to16_of_1to3 hlo hhi, hash1to3_eq hhi, routeWord_of_1to3 hlo hhi, Constants.k2]
  · rw [hash0to16_of_4to8 hlo hhi, routeWord_of_4to8 hlo hhi, hash4to8, lenWord]
  · rw [hash0to16_of_ge_9 hlo, routeWord_of_9to16 hlo hhi, hash9to16, lenWord]

/-- HASH_17TO32 over the latched length: the two checks, `hash_17to32` and route code 4 (R89). -/
theorem exec_hash17to32 (s : State) :
    exec .hash17to32 s =
      endOp s (firstRaised [lenCheck s, bucketCheck s (decide (17 ≤ s.lenQ.toNat ∧ s.lenQ.toNat ≤ 32))])
        fun s => afterDone s (hash17to32 s.rom s.ibuf s.lenQ.toNat) 4 := rfl

/-- Settles O22: the two checks, then the four overlapping words of R83. -/
theorem hash17to32RunsBucket : Obligations.Hash17to32RunsBucket := by
  refine ⟨encodedOnlyBy_of_decode (by decide) (by decide), ?_⟩
  rintro s L m K a b c d rfl rfl rfl rfl rfl rfl rfl
  rw [exec_hash17to32]
  refine ⟨endOp_checkedBucket_of_ge, fun hlen hout => ?_, fun hin => ?_⟩
  · exact endOp_checkedBucket_of_outside hlen (by omega)
  · rw [endOp_checkedBucket_of_inside (by omega) hin, hash17to32, Constants.k2, lenWord]

/-- The front triple, with the value of a at each use named (R84). -/
theorem frontTriple_eq {K : Constants} {m : Memory} {L : Nat} {z a a1 a2 c : Word} (hz : z = rd64 m 24)
    (ha : a = rd64 m 0 + (BitVec.ofNat 64 L + rd64 m (L - 16)) * K.k0) (ha1 : a1 = a + rd64 m 8)
    (ha2 : a2 = a1 + rd64 m 16) (hc : c = rotr a 37 + rotr a1 7) :
    frontTriple K m L = (a2 + z, rotr (a + z) 52 + rotr a2 31 + c) := by
  subst hz ha ha1 ha2 hc
  rfl

/-- The back triple, with the value of a at each use named (R85). -/
theorem backTriple_eq {m : Memory} {L : Nat} {z a a1 a2 c : Word} (hz : z = rd64 m (L - 8))
    (ha : a = rd64 m 16 + rd64 m (L - 32)) (ha1 : a1 = a + rd64 m (L - 24)) (ha2 : a2 = a1 + rd64 m (L - 16))
    (hc : c = rotr a 37 + rotr a1 7) :
    backTriple m L = (a2 + z, rotr (a + z) 52 + rotr a2 31 + c) := by
  subst hz ha ha1 ha2 hc
  rfl

/-- The final step over the two triples (R86). -/
theorem hash33to64_eq {K : Constants} {m : Memory} {L : Nat} {vf vs wf ws : Word}
    (hfront : frontTriple K m L = (vf, vs)) (hback : backTriple m L = (wf, ws)) :
    hash33to64 K m L =
      shiftMix (shiftMix ((vf + ws) * K.k2 + (wf + vs) * K.k0) * K.k0 + vs) * K.k2 := by
  rw [hash33to64, hfront, hback]

/-- HASH_33TO64 over the latched length: the two checks, `hash_33to64` and route code 5 (R90). -/
theorem exec_hash33to64 (s : State) :
    exec .hash33to64 s =
      endOp s (firstRaised [lenCheck s, bucketCheck s (decide (33 ≤ s.lenQ.toNat ∧ s.lenQ.toNat ≤ 64))])
        fun s => afterDone s (hash33to64 s.rom s.ibuf s.lenQ.toNat) 5 := rfl

/-- Settles O23: the two checks, then the front triple, the back triple and the final step. -/
theorem hash33to64RunsBucket : Obligations.Hash33to64RunsBucket := by
  refine ⟨encodedOnlyBy_of_decode (by decide) (by decide), ?_⟩
  rintro s L m K z a a1 a2 c vf vs z' a' a1' a2' c' wf ws r rfl rfl rfl hz ha ha1 ha2 hc rfl rfl hz' ha' ha1' ha2' hc'
    rfl rfl rfl
  rw [exec_hash33to64]
  refine ⟨endOp_checkedBucket_of_ge, fun hlen hout => ?_, fun hin => ?_⟩
  · exact endOp_checkedBucket_of_outside hlen (by omega)
  · have hvalue := hash33to64_eq (frontTriple_eq hz ha ha1 ha2 hc) (backTriple_eq hz' ha' ha1' ha2' hc')
    rw [endOp_checkedBucket_of_inside (by omega) hin, hvalue, Constants.k2]

end Sys2Proof.Machine
end

section
/-! WEAKHASH and WEAKHASH_WIN (42_weak_hash_long.md R91 to R94): the mixing step, and the two checks of the window form,
which completes with RESULT_HI from the mixing step too. -/

namespace Sys2Proof.Machine

/-- The mixing step, with the value of a at each use named (R91). -/
theorem weakHash_eq {w x y z seedA seedB a1 a2 : Word} (ha1 : a1 = seedA + w) (ha2 : a2 = a1 + x + y) :
    weakHash w x y z seedA seedB = (a2 + z, rotr (seedB + a1 + z) 21 + rotr a2 44 + a1) := by
  subst ha1 ha2
  rfl

/-- Settles O24: it makes no check and completes with the pair of the mixing step. -/
theorem weakhashMixesSixWords : Obligations.WeakhashMixesSixWords := by
  refine ⟨encodedOnlyBy_of_decode (by decide) (by decide), fun _ _ _ _ _ _ _ _ => weakHash_eq, ?_⟩
  rintro s p rfl
  simp only [exec, execWeakhash, endOp_none, complete_eq_afterDone]

/-! ### The checks of L and of a read, whatever the completion writes (R118) -/

section ReadChecks

variable {s : State} {n : Nat} {done : State → State}

theorem endOp_checkedRead_of_ge (hlen : 2 ^ 63 ≤ s.lenQ.toNat) :
    endOp s (firstRaised [lenCheck s, readCheck s n]) done = .next (afterFault s .lenRange s.lenQ) := by
  rw [lenCheck_of_ge hlen, firstRaised_some, endOp_some, faultEntry_eq_afterFault]

theorem endOp_checkedRead_of_outside (hlen : s.lenQ.toNat < 2 ^ 63) (hoob : s.lenQ.toNat < s.opsQ.opa.toNat + n) :
    endOp s (firstRaised [lenCheck s, readCheck s n]) done = .next (afterFault s .readOob s.opsQ.opa) := by
  rw [lenCheck_of_lt hlen, readCheck_of_lt hoob, firstRaised_none, firstRaised_some, endOp_some,
    faultEntry_eq_afterFault]

theorem endOp_checkedRead_of_inside (hlen : s.lenQ.toNat < 2 ^ 63) (hfits : s.opsQ.opa.toNat + n ≤ s.lenQ.toNat) :
    endOp s (firstRaised [lenCheck s, readCheck s n]) done = .next (done s) := by
  rw [lenCheck_of_lt hlen, readCheck_of_le hfits, firstRaised_none, firstRaised_none, firstRaised_nil, endOp_none]

end ReadChecks

/-- Settles O25: the two checks, then the mixing step on the window's four consecutive words (R92). -/
theorem weakhashWinMixesWindow : Obligations.WeakhashWinMixesWindow := by
  refine ⟨encodedOnlyBy_of_decode (by decide) (by decide), ?_⟩
  rintro s L off m p rfl rfl rfl rfl
  simp only [exec, execWeakhashWin]
  refine ⟨endOp_checkedRead_of_ge, endOp_checkedRead_of_outside, fun hlen hfits => ?_⟩
  rw [endOp_checkedRead_of_inside hlen hfits, complete_eq_afterDone, weakHashWindow, readOffset]

end Sys2Proof.Machine
end

section
/-! CLASSIFY (43_dispatch_control.md R105, R107): its one check, and the route codes of the lengths above 16. -/

namespace Sys2Proof.Machine

/-! ### An operation that checks L alone (R118) -/

section LenCheck

variable {s : State} {done : State → State}

theorem endOp_lenChecked_of_ge (hlen : 2 ^ 63 ≤ s.lenQ.toNat) :
    endOp s (firstRaised [lenCheck s]) done = .next (afterFault s .lenRange s.lenQ) := by
  rw [lenCheck_of_ge hlen, firstRaised_some, endOp_some, faultEntry_eq_afterFault]

theorem endOp_lenChecked_of_lt (hlen : s.lenQ.toNat < 2 ^ 63) :
    endOp s (firstRaised [lenCheck s]) done = .next (done s) := by
  rw [lenCheck_of_lt hlen, firstRaised_none, firstRaised_nil, endOp_none]

end LenCheck

/-! ### The route codes that HASH_0TO16 does not write (R105) -/

section RouteCodes

variable {L : Nat}

theorem routeWord_of_17to32 (hlo : 17 ≤ L) (hhi : L ≤ 32) : routeWord L = 4 := by
  rw [routeWord, route, if_neg (by omega), if_neg (by omega), if_neg (by omega), if_neg (by omega), if_pos hhi,
    BitVec.ofNat_eq_ofNat]

theorem routeWord_of_33to64 (hlo : 33 ≤ L) (hhi : L ≤ 64) : routeWord L = 5 := by
  rw [routeWord, route, if_neg (by omega), if_neg (by omega), if_neg (by omega), if_neg (by omega),
    if_neg (by omega), if_pos hhi, BitVec.ofNat_eq_ofNat]

theorem routeWord_of_ge_65 (hlo : 65 ≤ L) : routeWord L = 6 := by
  rw [routeWord, route, if_neg (by omega), if_neg (by omega), if_neg (by omega), if_neg (by omega),
    if_neg (by omega), if_neg (by omega), BitVec.ofNat_eq_ofNat]

end RouteCodes

/-- CLASSIFY over the latched length: the check of L, then the route code (R107). -/
theorem exec_classify (s : State) :
    exec .classify s =
      endOp s (firstRaised [lenCheck s]) fun s => afterDone s (routeWord s.lenQ.toNat) 0 := rfl

/-- Below 2^63 CLASSIFY completes with the route code, whatever the route. -/
theorem exec_classify_of_lt {s : State} {code : Word} (hlen : s.lenQ.toNat < 2 ^ 63)
    (hcode : routeWord s.lenQ.toNat = code) : exec .classify s = .next (afterDone s code 0) := by
  rw [exec_classify, endOp_lenChecked_of_lt hlen, hcode]

/-- Settles O20: the check of L, then one clause for each route code. -/
theorem classifyReportsRoute : Obligations.ClassifyReportsRoute := by
  refine ⟨encodedOnlyBy_of_decode (by decide) (by decide), ?_⟩
  rintro s L rfl
  refine ⟨fun hlen => ?_, fun hzero => ?_, fun ⟨hlo, hhi⟩ => ?_, fun ⟨hlo, hhi⟩ => ?_, fun ⟨hlo, hhi⟩ => ?_,
    fun ⟨hlo, hhi⟩ => ?_, fun ⟨hlo, hhi⟩ => ?_, fun ⟨hlo, hlen⟩ => ?_⟩
  · rw [exec_classify, endOp_lenChecked_of_ge hlen]
  · exact exec_classify_of_lt (by omega) (by rw [hzero, routeWord_zero])
  · exact exec_classify_of_lt (by omega) (routeWord_of_1to3 hlo hhi)
  · exact exec_classify_of_lt (by omega) (routeWord_of_4to8 hlo hhi)
  · exact exec_classify_of_lt (by omega) (routeWord_of_9to16 hlo hhi)
  · exact exec_classify_of_lt (by omega) (routeWord_of_17to32 hlo hhi)
  · exact exec_classify_of_lt (by omega) (routeWord_of_33to64 hlo hhi)
  · exact exec_classify_of_lt hlen (routeWord_of_ge_65 hlo)

end Sys2Proof.Machine
end

section
/-! A host write to the window (20_memory.md R43, R47) and a write to CMD, which issues or is ignored
(43_dispatch_control.md R109, R111). -/

namespace Sys2Proof.Machine

/-- An access of 64 bits at a multiple of 8 inside the window is let through (R43, R24). -/
theorem windowAccess_of_allowed {off : Nat} {go : Host.Outcome State Fault Refusal} (haligned : off % 8 = 0)
    (hinside : off < 0x100) : windowAccess off 64 go = go := by
  rw [windowAccess, if_neg (not_not.mpr rfl), if_neg (not_not.mpr haligned), if_neg (Nat.not_le.mpr hinside)]

/-- When the host's next statement is an allowed write, the step writes the window and the host moves on. -/
theorem step_of_write {s : State} {off : Nat} {hv : HostValue} {v : Word}
    (hvalue : valueOf s.host.vars hv = some v) (hmoves : hostMoves s (.write off 64 hv)) (haligned : off % 8 = 0)
    (hinside : off < 0x100) : step s = .next (hostNext (writeWindow (takeTurn s) off v)) := by
  simp only [step_of_hostMoves hmoves, hostStmt, takeTurn_host, hvalue, windowAccess_of_allowed haligned hinside]

@[simp] theorem writeWindow_cmd (s : State) (v : Word) : writeWindow s 0x00 v = writeCmd s v := rfl

theorem writeCmd_of_not_busy {s : State} (v : Word) (hbusy : s.status.busy = false) : writeCmd s v = issue s v :=
  if_neg (by simp [hbusy])

theorem writeCmd_of_busy {s : State} (v : Word) (hbusy : s.status.busy = true) : writeCmd s v = s := if_pos hbusy

/-- The rules' host move and the model's are one: the turn taken and the host at its next statement. -/
theorem hostNext_takeTurn (s : State) : hostNext (takeTurn s) = hostMoved s := rfl

/-- An issue touches neither the turns nor the host. -/
theorem hostNext_issue (s : State) (cmd : Word) : hostNext (issue s cmd) = issue (hostNext s) cmd := rfl

/-- Settles O32: the write reaches CMD, and CMD issues while BUSY is 0. -/
theorem commandWriteIssues : Obligations.CommandWriteIssues := by
  intro s hv cmd hvalue hmoves hbusy
  rw [step_of_write hvalue hmoves (by decide) (by decide), writeWindow_cmd,
    writeCmd_of_not_busy (s := takeTurn s) cmd hbusy, hostNext_issue, hostNext_takeTurn]
  rfl

/-- Settles O33: the write reaches CMD, and CMD ignores it while BUSY is 1. -/
theorem busyCommandWriteIsIgnored : Obligations.BusyCommandWriteIsIgnored := by
  intro s hv cmd hvalue hmoves hbusy
  rw [step_of_write hvalue hmoves (by decide) (by decide), writeWindow_cmd,
    writeCmd_of_busy (s := takeTurn s) cmd hbusy, hostNext_takeTurn]

end Sys2Proof.Machine
end

section
/-! The fault of an end step (60_exceptions.md R116 to R119): the first check that raises, named as a function of the
latched registers, is the fault that is due. -/

namespace Sys2Proof.Machine

/-! ### The checks of each command, and its end -/

/-- The checks a command makes on its latched operands, in the order of R118. -/
def operandChecks (i : Instr) (s : State) : List (Option Raised) :=
  match i with
  | .hash64 => [lenCheck s]
  | .hash0to16 => [lenCheck s, bucketCheck s (decide (s.lenQ.toNat ≤ 16))]
  | .hash17to32 => [lenCheck s, bucketCheck s (decide (17 ≤ s.lenQ.toNat ∧ s.lenQ.toNat ≤ 32))]
  | .hash33to64 => [lenCheck s, bucketCheck s (decide (33 ≤ s.lenQ.toNat ∧ s.lenQ.toNat ≤ 64))]
  | .hashLong => [lenCheck s, bucketCheck s (decide (64 < s.lenQ.toNat))]
  | .classify => [lenCheck s]
  | .rd8 => [lenCheck s, readCheck s 1]
  | .rd32 => [lenCheck s, readCheck s 4]
  | .rd64 => [lenCheck s, readCheck s 8]
  | .weakhashWin => [lenCheck s, readCheck s 32]
  | .rotr _ => []
  | .shiftmix => []
  | .combine => []
  | .weakhash => []

/-- How a command ends from `s`, by the fault its checks raised: in the entry of that fault (R119), or completed with
new working registers `lg` and results if they raised none (R110). -/
inductive EndsBy (s : State) : Option Raised → Host.Outcome State Fault Refusal → Prop where
  | faulted (r : Raised) : EndsBy s (some r) (.next (faultEntry s r.cause r.info))
  | completed (lg : LongRegs) (r hi : Word) : EndsBy s none (.next (complete { s with long := lg } r hi))

/-- The shared end of an operation: a `done` that completes is run only if nothing was raised (R110). -/
theorem endOp_endsBy {s : State} {raised : Option Raised} {done : State → State}
    (hdone : ∃ lg r hi, done s = complete { s with long := lg } r hi) : EndsBy s raised (endOp s raised done) := by
  cases raised with
  | some r => exact .faulted r
  | none =>
    obtain ⟨lg, r, hi, hdone⟩ := hdone
    rw [endOp_none, hdone]
    exact .completed lg r hi

/-- A well-formed command ends by the first fault its checks raise. -/
theorem exec_endsBy {i : Instr} (s : State) (hi : i.wellFormed = true) :
    EndsBy s (firstRaised (operandChecks i s)) (exec i s) := by
  cases i with
  | rotr shamt =>
    simp only [exec, execRotr, if_pos (of_decide_eq_true hi)]
    exact endOp_endsBy ⟨s.long, _, _, rfl⟩
  | hash64 =>
    simp only [exec, execHash64]
    refine endOp_endsBy ?_
    by_cases hlen : inputLen s ≤ 64
    · exact ⟨s.long, _, _, if_pos hlen⟩
    · exact ⟨_, _, _, if_neg hlen⟩
  | hashLong =>
    simp only [exec, execHashLong]
    exact endOp_endsBy ⟨_, _, _, rfl⟩
  | hash0to16 | hash17to32 | hash33to64 | classify | rd8 | rd32 | rd64 | shiftmix | combine | weakhash
  | weakhashWin =>
    simp only [exec, execHash0to16, execHash17to32, execHash33to64, execClassify, execRd8, execRd32, execRd64,
      execShiftmix, execCombine, execWeakhash, execWeakhashWin]
    exact endOp_endsBy ⟨s.long, _, _, rfl⟩

/-- The fault the latched command raises, if it raises one: by its encoding, or else by its checks (R116, R118). -/
def raisedFault (s : State) : Option Raised :=
  match decode s.cmdQ with
  | .illegalOp => some { cause := .illegalOp, info := s.cmdQ }
  | .illegalCmd => some { cause := .illegalCmd, info := s.cmdQ }
  | .command i => firstRaised (operandChecks i s)

/-- The latched command ends by the fault it raises. -/
theorem runCommand_endsBy (s : State) : EndsBy s (raisedFault s) (runCommand s) := by
  unfold runCommand raisedFault
  cases hdecode : decode s.cmdQ with
  | illegalOp => exact .faulted ⟨.illegalOp, s.cmdQ⟩
  | illegalCmd => exact .faulted ⟨.illegalCmd, s.cmdQ⟩
  | command i => exact exec_endsBy s (decode_wellFormed hdecode)

/-! ### What the checks raise -/

section Checks

variable {s : State} {r : Raised}

theorem firstRaised_lenCheck_cons_iff {rest : List (Option Raised)} :
    firstRaised (lenCheck s :: rest) = some r ↔
      (2 ^ 63 ≤ s.lenQ.toNat ∧ r = ⟨.lenRange, s.lenQ⟩) ∨ (s.lenQ.toNat < 2 ^ 63 ∧ firstRaised rest = some r) := by
  rcases Nat.lt_or_ge s.lenQ.toNat (2 ^ 63) with hlen | hlen
  · simp [lenCheck_of_lt hlen, hlen, Nat.not_le.mpr hlen, -Nat.reducePow]
  · simp [lenCheck_of_ge hlen, hlen, Nat.not_lt.mpr hlen, @eq_comm _ r, -Nat.reducePow]

theorem firstRaised_bucketCheck_iff {inBucket : Bool} :
    firstRaised [bucketCheck s inBucket] = some r ↔ inBucket = false ∧ r = ⟨.bucketRange, s.lenQ⟩ := by
  cases inBucket <;> simp [eq_comm]

theorem firstRaised_readCheck_iff {n : Nat} :
    firstRaised [readCheck s n] = some r ↔ s.lenQ.toNat < s.opsQ.opa.toNat + n ∧ r = ⟨.readOob, s.opsQ.opa⟩ := by
  rcases Nat.lt_or_ge s.lenQ.toNat (s.opsQ.opa.toNat + n) with hoob | hfits
  · simp [readCheck_of_lt hoob, hoob, eq_comm]
  · simp [readCheck_of_le hfits, Nat.not_lt.mpr hfits]

end Checks

/-- The fault that is due for the operands of the operation OP, its encoding being legal (R116, R118). -/
def OperandFaultDue (op : Nat) (lenQ opaQ : Word) (r : Raised) : Prop :=
  (2 ^ 63 ≤ lenQ.toNat ∧ op ∈ lenReadingOps ∧ r = ⟨.lenRange, lenQ⟩) ∨
  (lenQ.toNat < 2 ^ 63 ∧ bucketBroken op lenQ.toNat ∧ r = ⟨.bucketRange, lenQ⟩) ∨
  (lenQ.toNat < 2 ^ 63 ∧ readBroken op lenQ.toNat opaQ.toNat ∧ r = ⟨.readOob, opaQ⟩)

/-- The checks of a command raise the fault that is due for its operands. -/
theorem firstRaised_operandChecks_iff {i : Instr} {s : State} {r : Raised} :
    firstRaised (operandChecks i s) = some r ↔ OperandFaultDue (opcode i) s.lenQ s.opsQ.opa r := by
  unfold OperandFaultDue lenReadingOps bucketBroken readBroken
  cases i with
  | rotr shamt | shiftmix | combine | weakhash => simp [operandChecks, opcode]
  | hash64 | classify => simp [operandChecks, opcode, firstRaised_lenCheck_cons_iff]
  | hash0to16 | hash17to32 | hash33to64 | hashLong =>
    simp [operandChecks, opcode, firstRaised_lenCheck_cons_iff, firstRaised_bucketCheck_iff]
  | rd8 | rd32 | rd64 | weakhashWin =>
    simp [operandChecks, opcode, firstRaised_lenCheck_cons_iff, firstRaised_readCheck_iff]

/-- Only an assigned OP other than ROTR's has a check on its operands. -/
theorem OperandFaultDue.op_assigned {op : Nat} {lenQ opaQ : Word} {r : Raised} (h : OperandFaultDue op lenQ opaQ r) :
    op ∈ assignedOps ∧ op ≠ 0x20 := by
  simp only [OperandFaultDue, lenReadingOps, bucketBroken, readBroken, assignedOps, List.mem_cons,
    List.not_mem_nil, or_false] at h ⊢
  omega

/-! ### The fault that is due, by what the command word decodes to -/

section Due

variable {cmd lenQ opaQ info : Word} {c : Cause}

/-- The fault that is due is that of the encoding, or with a legal encoding that of the operands. -/
theorem faultDue_iff :
    FaultDue cmd lenQ opaQ c info ↔
      (decode cmd = .illegalOp ∧ c = .illegalOp ∧ info = cmd) ∨
      (decode cmd = .illegalCmd ∧ c = .illegalCmd ∧ info = cmd) ∨
      (cmdRsvd cmd = 0 ∧ cmdShamt cmd = 0 ∧ OperandFaultDue (cmdOp cmd).toNat lenQ opaQ ⟨c, info⟩) := by
  rw [decode_eq_illegalOp_iff, decode_eq_illegalCmd_iff]
  constructor
  · rintro (hop | ⟨hop, hbits⟩ | ⟨_, rfl, hop, hrsvd, hshamt, hlen⟩ | ⟨_, rfl, hlen, hrsvd, hshamt, hbucket⟩ |
      ⟨_, rfl, hlen, hrsvd, hshamt, hread⟩)
    · exact .inl ⟨hop, rfl, rfl⟩
    · exact .inr (.inl ⟨⟨hop, hbits.imp_right And.symm⟩, rfl, rfl⟩)
    · exact .inr (.inr ⟨hrsvd, hshamt, .inl ⟨hlen, hop, rfl⟩⟩)
    · exact .inr (.inr ⟨hrsvd, hshamt, .inr (.inl ⟨hlen, hbucket, rfl⟩)⟩)
    · exact .inr (.inr ⟨hrsvd, hshamt, .inr (.inr ⟨hlen, hread, rfl⟩)⟩)
  · rintro (⟨hop, rfl, rfl⟩ | ⟨⟨hop, hbits⟩, rfl, rfl⟩ |
      ⟨hrsvd, hshamt, ⟨hlen, hop, hr⟩ | ⟨hlen, hbucket, hr⟩ | ⟨hlen, hread, hr⟩⟩)
    · exact .illegalOp hop
    · exact .illegalCmd hop (hbits.imp_right And.symm)
    · cases hr; exact .lenRange _ rfl hop hrsvd hshamt hlen
    · cases hr; exact .bucketRange _ rfl hlen hrsvd hshamt hbucket
    · cases hr; exact .readOob _ rfl hlen hrsvd hshamt hread

end Due

/-- The fault that is due is the one the latched command raises. -/
theorem faultDue_iff_raisedFault {s : State} {c : Cause} {info : Word} :
    FaultDue s.cmdQ s.lenQ s.opsQ.opa c info ↔ raisedFault s = some ⟨c, info⟩ := by
  rw [faultDue_iff, raisedFault]
  cases hdecode : decode s.cmdQ with
  | illegalOp =>
    have hop := decode_eq_illegalOp_iff.mp hdecode
    have hnone {r : Raised} : ¬ OperandFaultDue (cmdOp s.cmdQ).toNat s.lenQ s.opsQ.opa r :=
      fun h => hop h.op_assigned.1
    simp [hnone, eq_comm]
  | illegalCmd =>
    have hnone {r : Raised} : ¬ (cmdRsvd s.cmdQ = 0 ∧ cmdShamt s.cmdQ = 0 ∧
        OperandFaultDue (cmdOp s.cmdQ).toNat s.lenQ s.opsQ.opa r) := fun ⟨hrsvd, hshamt, _⟩ =>
      (decode_eq_illegalCmd_iff.mp hdecode).2.elim (· hrsvd) (·.2 hshamt)
    simp only [hnone, or_false]
    simp [eq_comm]
  | command i =>
    obtain ⟨hselect, hrsvd, hshamt⟩ := decode_command hdecode
    obtain ⟨hop, -⟩ := selectOp_spec hselect
    have hshamt' {r : Raised} (h : OperandFaultDue (cmdOp s.cmdQ).toNat s.lenQ s.opsQ.opa r) : cmdShamt s.cmdQ = 0 :=
      hshamt.resolve_left fun hrotr => h.op_assigned.2 (by rw [hrotr]; rfl)
    simp only [firstRaised_operandChecks_iff, hop]
    simpa [hrsvd] using hshamt'

/-- While the block runs no fault stands: BUSY excludes FAULT (R17, R26). -/
theorem Inv.fault_of_run {s : State} (hinv : Inv s) (hrun : s.phase = .run) : s.status.fault = false := by
  have hlegal := hinv.legal
  rw [statusLegal, hinv.phaseBusy.mp hrun] at hlegal
  cases hfault : s.status.fault with
  | false => rfl
  | true => simp [hfault] at hlegal

/-- Settles O7: the fault that is due is the one the command raises, and the end step enters that one or completes. -/
theorem firstDueFaultIsReported : Obligations.FirstDueFaultIsReported := by
  intro s hinv hmoves
  have hends : EndsBy (takeTurn s) (raisedFault s) (runCommand (takeTurn s)) := runCommand_endsBy (takeTurn s)
  simp only [faultDue_iff_raisedFault]
  generalize raisedFault s = raised, hrun : runCommand (takeTurn s) = o at hends ⊢
  cases hends with
  | faulted r =>
    refine .inl ⟨r.cause, r.info, step_of_runCommand_faultEntry hmoves hrun, fun c info => ?_⟩
    rw [Option.some_inj, eq_comm, Raised.mk.injEq]
  | completed lg r hi =>
    have hstep := step_of_blockMoves hmoves
    rw [endStep, hrun] at hstep
    exact .inr ⟨_, hstep, hinv.fault_of_run hmoves.1, rfl, nofun⟩

end Sys2Proof.Machine
end

section
/-! Reset (70_reset_and_hazards.md R133, R134): a move of the platform, whatever the block is doing. -/

namespace Sys2Proof.Machine

/-- When the platform moves, the step is a reset, in either PHASE. -/
theorem step_of_platformMoves {s : State} (hmoves : s.turns.head? = some .platform) :
    step s = .next (platformReset (takeTurn s)) := by
  obtain ⟨later, hturns⟩ := List.head?_eq_some_iff.mp hmoves
  have hagent : nextAgent s = .platform := by rw [nextAgent, hturns]
  rw [step, hagent]

/-- Settles O43: the platform's step is a reset, which writes the host registers and PHASE and no other field listed. -/
theorem resetAbandonsAndClears : Obligations.ResetAbandonsAndClears := by
  intro s hmoves
  refine ⟨_, step_of_platformMoves hmoves, ?_⟩
  simp [Status.zero, Operands.zero]

end Sys2Proof.Machine
end

section
/-! Encoding and decoding agree in both directions (30_encoding.md R56 to R63): a word is its three fields, and the
fields of an encoding are the OP and the SHAMT of its command. -/

namespace Sys2Proof.Machine

/-- Two command words are equal exactly when their three fields are (R56). -/
theorem eq_iff_fields_eq {v w : Word} :
    v = w ↔ cmdOp v = cmdOp w ∧ cmdShamt v = cmdShamt w ∧ cmdRsvd v = cmdRsvd w :=
  ⟨fun h => by rw [h]; exact ⟨rfl, rfl, rfl⟩, fun ⟨hop, hshamt, hrsvd⟩ => eq_of_fields_eq hop hshamt hrsvd⟩

/-- The three fields of the encoding of a well-formed command (R63), over all commands. -/
theorem fields_encode {i : Instr} (hi : i.wellFormed = true) :
    cmdOp (encode i) = BitVec.ofNat 8 (opcode i) ∧ cmdShamt (encode i) = BitVec.ofNat 6 (shamtField i) ∧
      cmdRsvd (encode i) = 0 := by
  cases i with
  | hash64 => exact Laws.OpField.hash64 hi
  | hash0to16 => exact Laws.OpField.hash0to16 hi
  | hash17to32 => exact Laws.OpField.hash17to32 hi
  | hash33to64 => exact Laws.OpField.hash33to64 hi
  | hashLong => exact Laws.OpField.hashLong hi
  | classify => exact Laws.OpField.classify hi
  | rd8 => exact Laws.OpField.rd8 hi
  | rd32 => exact Laws.OpField.rd32 hi
  | rd64 => exact Laws.OpField.rd64 hi
  | rotr shamt => exact Laws.OpField.rotr shamt hi
  | shiftmix => exact Laws.OpField.shiftmix hi
  | combine => exact Laws.OpField.combine hi
  | weakhash => exact Laws.OpField.weakhash hi
  | weakhashWin => exact Laws.OpField.weakhashWin hi

/-- A word that decodes to a command is that command's encoding. -/
theorem encode_of_decode {w : Word} {i : Instr} (hdecode : decode w = .command i) : encode i = w := by
  obtain ⟨hop', hshamt', hrsvd'⟩ := fields_encode (decode_wellFormed hdecode)
  obtain ⟨hselect, hrsvd, hshamt⟩ := decode_command hdecode
  obtain ⟨hop, hfield⟩ := selectOp_spec hselect
  refine eq_of_fields_eq ?_ ?_ (hrsvd'.trans hrsvd.symm)
  · rw [hop', hop, BitVec.ofNat_toNat, BitVec.setWidth_eq]
  · rw [hshamt', hfield]
    split_ifs with hrotr
    · rw [BitVec.ofNat_toNat, BitVec.setWidth_eq]
    · exact (hshamt.resolve_left fun h => hrotr (by rw [h]; rfl)).symm

/-- Outside ROTR the encoding is the OP alone, and decoding it gives the command back. -/
theorem decode_encode_of_shamtField_zero {i : Instr} (hselect : selectOp (opcode i) 0 = some i)
    (hshamt : shamtField i = 0) (hi : i.wellFormed = true) : decode (encode i) = .command i := by
  obtain ⟨hop, hfield, hrsvd⟩ := fields_encode hi
  rw [hshamt] at hfield
  have hassigned : opcode i < 256 := by cases i <;> simp [opcode]
  rw [decode_eq_command_iff, hop, hfield, BitVec.toNat_ofNat, Nat.mod_eq_of_lt hassigned]
  exact ⟨hselect, hrsvd, .inr rfl⟩

/-- The encoding of a well-formed command decodes to it. -/
theorem decode_encode {i : Instr} (hi : i.wellFormed = true) : decode (encode i) = .command i := by
  cases i with
  | rotr shamt => exact decode_eq_rotr_iff_encode.mpr ⟨of_decide_eq_true hi, rfl⟩
  | hash64 | hash0to16 | hash17to32 | hash33to64 | hashLong | classify | rd8 | rd32 | rd64 | shiftmix | combine
  | weakhash | weakhashWin => exact decode_encode_of_shamtField_zero rfl rfl hi

/-- Settles O1: a decoded word is the encoding of its command, and that encoding decodes. -/
theorem decodeAndEncodeAgree : Obligations.DecodeAndEncodeAgree := by
  refine fun i w => ⟨fun hdecode => ⟨decode_wellFormed hdecode, encode_of_decode hdecode⟩, ?_⟩
  rintro ⟨hi, rfl⟩
  exact decode_encode hi

/-- The mask of ROTR clears SHAMT and keeps OP and RSVD (R62). -/
theorem fields_and_rotrMask (w : Word) :
    cmdOp (w &&& 0xFFFFFFFFFFFFC0FF) = cmdOp w ∧ cmdShamt (w &&& 0xFFFFFFFFFFFFC0FF) = 0 ∧
      cmdRsvd (w &&& 0xFFFFFFFFFFFFC0FF) = cmdRsvd w := by
  simp only [cmdOp, cmdShamt, cmdRsvd, BitVec.extractLsb'_and]
  exact ⟨BitVec.and_allOnes, BitVec.and_zero, BitVec.and_allOnes⟩

/-- A word matches 0x20 under the mask of ROTR exactly when its OP is ROTR's and RSVD is 0. -/
theorem and_rotrMask_eq_iff {w : Word} :
    w &&& 0xFFFFFFFFFFFFC0FF = 0x0000000000000020 ↔ cmdOp w = 0x20 ∧ cmdRsvd w = 0 := by
  obtain ⟨hop, hshamt, hrsvd⟩ := fields_and_rotrMask w
  have hmatch : cmdOp 0x20 = 0x20 ∧ cmdShamt 0x20 = 0 ∧ cmdRsvd 0x20 = 0 := by decide
  obtain ⟨hop', hshamt', hrsvd'⟩ := hmatch
  rw [eq_iff_fields_eq, hop, hshamt, hrsvd, hop', hshamt', hrsvd']
  tauto

/-- Settles O2: ROTR by its fields, and every other operation by its one encoding. -/
theorem decodeIsMatchUnderMask : Obligations.DecodeIsMatchUnderMask := by
  intro w
  constructor
  · intro s
    rw [decode_eq_rotr_iff, and_rotrMask_eq_iff, eq_comm (a := s), cmdShamt]
    tauto
  · intro p hp
    have hcode : p.1.wellFormed = true ∧ encode p.1 = p.2 := by
      revert p
      decide
    have hmask : w &&& 0xFFFFFFFFFFFFFFFF = w := BitVec.and_allOnes
    rw [decodeAndEncodeAgree p.1 w, hmask, hcode.2, eq_comm (a := w)]
    exact and_iff_right hcode.1

/-- Settles O3, by decoding the ten words. -/
theorem writtenWordsDecode : Obligations.WrittenWordsDecode := by
  unfold Obligations.WrittenWordsDecode
  decide

/-- Settles O16: 63 is the largest amount that ROTR takes and that SHAMT holds. -/
theorem rotationBeyondFieldIsRefused : Obligations.RotationBeyondFieldIsRefused := by
  intro s k hk
  have hnot : ¬ k ≤ 63 := by omega
  exact ⟨if_neg hnot, fun w hdecode => hnot (decode_eq_rotr_iff_encode.mp hdecode).1⟩

end Sys2Proof.Machine
end

section
/-! The spec's own inferences on reads of different widths (20_memory.md R44) and on the bits of `rotr` and `shift_mix`
(40_primitives.md R72, R74, R75). -/

namespace Sys2Proof.Machine

/-! ### Reads over the same bytes -/

/-- Up to eight bytes, MemRead of n bytes is below 2^(8n). -/
theorem memRead_toNat_lt (m : Memory) (off : Nat) {n : Nat} (hn : n ≤ 8) :
    (memRead m off n).toNat < 2 ^ (8 * n) := by
  rw [memRead_toNat m off hn]
  exact littleEndianSum_lt m off n

/-- A read of n + k bytes is the read of the first n, and above it the read of the next k. -/
theorem memRead_add_toNat (m : Memory) (off n k : Nat) (h : n + k ≤ 8) :
    (memRead m off (n + k)).toNat =
      (memRead m off n).toNat + 2 ^ (8 * n) * (memRead m (off + n) k).toNat := by
  rw [memRead_toNat m off h, memRead_toNat m off (by omega), memRead_toNat m (off + n) (by omega),
    Finset.sum_range_add, Finset.mul_sum]
  congr 1
  refine Finset.sum_congr rfl fun i _ => ?_
  rw [Nat.add_assoc]
  ring

/-- The first n bytes of a read are its low bits. -/
theorem memRead_eq_low (m : Memory) (off n k : Nat) (h : n + k ≤ 8) :
    memRead m off n = ((memRead m off (n + k)).extractLsb' 0 (8 * n)).setWidth 64 := by
  have hlow : (memRead m off n).toNat < 2 ^ (8 * n) := memRead_toNat_lt m off (by omega)
  apply BitVec.eq_of_toNat_eq
  rw [BitVec.toNat_setWidth, BitVec.extractLsb'_toNat, Nat.shiftRight_zero, memRead_add_toNat m off n k h,
    Nat.add_mul_mod_self_left, Nat.mod_eq_of_lt hlow, Nat.mod_eq_of_lt (memRead m off n).isLt]

/-- The last k bytes of a read are its high bits. -/
theorem memRead_eq_high (m : Memory) (off n k : Nat) (h : n + k ≤ 8) :
    memRead m (off + n) k = ((memRead m off (n + k)).extractLsb' (8 * n) (8 * k)).setWidth 64 := by
  have hlow : (memRead m off n).toNat < 2 ^ (8 * n) := memRead_toNat_lt m off (by omega)
  have hhigh : (memRead m (off + n) k).toNat < 2 ^ (8 * k) := memRead_toNat_lt m (off + n) (by omega)
  apply BitVec.eq_of_toNat_eq
  rw [BitVec.toNat_setWidth, BitVec.extractLsb'_toNat, Nat.shiftRight_eq_div_pow, memRead_add_toNat m off n k h,
    Nat.add_mul_div_left _ _ (Nat.two_pow_pos _), Nat.div_eq_of_lt hlow, Nat.zero_add, Nat.mod_eq_of_lt hhigh,
    Nat.mod_eq_of_lt (memRead m (off + n) k).isLt]

/-- Settles O10: the shorter reads are the low or the high bytes of the read of eight. -/
theorem mixedWidthReadsAgree : Obligations.MixedWidthReadsAgree := fun m off =>
  ⟨memRead_eq_low m off 4 4 (by decide), memRead_eq_low m off 1 7 (by decide),
    memRead_eq_high m off 4 4 (by decide)⟩

/-! ### The bits of the mixers -/

/-- A rotation by 1 to 63 is the two shifts of R72. -/
theorem rotr_of_pos (v : Word) {s : Nat} (hs : 1 ≤ s) : rotr v s = (v >>> s) ||| (v <<< (64 - s)) :=
  if_neg (by omega)

/-- Bit i of a rotation by s is bit i + s, counted around the word (R72). -/
theorem getLsbD_rotr (v : Word) {s i : Nat} (hs : s ≤ 63) (hi : i < 64) :
    (rotr v s).getLsbD i = v.getLsbD ((i + s) % 64) := by
  rcases Nat.eq_zero_or_pos s with rfl | hpos
  · rw [Nat.add_zero, Nat.mod_eq_of_lt hi]
    rfl
  · rw [rotr_of_pos v hpos, BitVec.getLsbD_or, BitVec.getLsbD_ushiftRight, BitVec.getLsbD_shiftLeft]
    rcases Nat.lt_or_ge (i + s) 64 with hin | hwrap
    · simp [Nat.mod_eq_of_lt hin, show i < 64 - s by omega, Nat.add_comm s i]
    · have hmod : (i + s) % 64 = i - (64 - s) := by omega
      simp [hmod, hi, show ¬ i < 64 - s by omega, BitVec.getLsbD_of_ge v (s + i) (by omega)]

/-- Settles O14: the two cases of the definition, and the bits of the two shifts. -/
theorem rotrMovesBits : Obligations.RotrMovesBits :=
  ⟨fun _ => rfl, fun v _ hs _ => rotr_of_pos v hs, fun v _ _ => getLsbD_rotr v⟩

/-- Bit i of `shift_mix` is bit i xor bit i + 47 (R74). -/
theorem getLsbD_shiftMix (v : Word) (i : Nat) :
    (shiftMix v).getLsbD i = (v.getLsbD i ^^ v.getLsbD (47 + i)) := by
  rw [shiftMix, BitVec.getLsbD_xor, BitVec.getLsbD_ushiftRight]

/-- `shift_mix` is its own inverse: a bit shifted twice by 47 leaves the word (R75). -/
theorem shiftMix_shiftMix (v : Word) : shiftMix (shiftMix v) = v := by
  refine BitVec.eq_of_getLsbD_eq fun i hi => ?_
  rw [getLsbD_shiftMix, getLsbD_shiftMix, getLsbD_shiftMix, BitVec.getLsbD_of_ge v (47 + (47 + i)) (by omega)]
  simp

/-- Settles O18, bit by bit. -/
theorem shiftMixIsItsOwnInverse : Obligations.ShiftMixIsItsOwnInverse := by
  refine fun v => ⟨rfl, BitVec.eq_of_getLsbD_eq fun i hi => ?_, BitVec.eq_of_getLsbD_eq fun i hi => ?_,
    shiftMix_shiftMix v⟩
  · simp [getLsbD_shiftMix, BitVec.getLsbD_of_ge v (47 + (17 + i)) (by omega)]
  · simp [getLsbD_shiftMix, hi]

end Sys2Proof.Machine
end

section
/-! The reset values (10_state.md R34), and the invariant along a step (R14, R17, R19, R26): which fields it is about,
and that every named update of the state keeps it. -/

namespace Sys2Proof.Machine

/-- The legal combinations are those with at most one of BUSY, DONE and FAULT set (R17). -/
theorem statusLegal_iff {st : Status} :
    statusLegal st = true ↔
      ¬ (st.busy = true ∧ st.done = true) ∧ ¬ (st.busy = true ∧ st.fault = true) ∧
        ¬ (st.done = true ∧ st.fault = true) := by
  unfold statusLegal
  cases st.busy <;> cases st.done <;> cases st.fault <;> decide

/-- The invariant is about IBUF, PHASE, STATUS, FAULT_INFO, K and the record alone. -/
theorem Inv.of_fields_eq {s t : State} (hinv : Inv s) (hibuf : t.ibuf = s.ibuf) (hphase : t.phase = s.phase)
    (hstatus : t.status = s.status) (hinfo : t.faultInfo = s.faultInfo) (hrom : t.rom = s.rom)
    (hrecord : t.record = s.record) : Inv t where
  ibufCanonical := hibuf ▸ hinv.ibufCanonical
  phaseBusy := by rw [hphase, hstatus]; exact hinv.phaseBusy
  legal := hstatus ▸ hinv.legal
  causeFault := hstatus ▸ hinv.causeFault
  infoFault := by rw [hstatus, hinfo]; exact hinv.infoFault
  constantsOdd := hrom ▸ hinv.constantsOdd
  recordCauses := hrecord ▸ hinv.recordCauses

/-- Settles O44, value by value. -/
theorem resetStateHasGivenValues : Obligations.ResetStateHasGivenValues := by
  unfold Obligations.ResetStateHasGivenValues
  decide

/-- Settles O45, field by field. -/
theorem invariantHoldsAtReset : Obligations.InvariantHoldsAtReset where
  ibufCanonical := reset_ibuf_wf
  phaseBusy := by decide
  legal := rfl
  causeFault := by decide
  infoFault := fun _ => rfl
  constantsOdd := by decide
  recordCauses := rfl

section Updates

variable {s : State} (hinv : Inv s)
include hinv

theorem inv_takeTurn : Inv (takeTurn s) := hinv.of_fields_eq rfl rfl rfl rfl rfl rfl

theorem inv_hostNext : Inv (hostNext s) := hinv.of_fields_eq rfl rfl rfl rfl rfl rfl

theorem inv_platformReset : Inv (platformReset s) where
  ibufCanonical := hinv.ibufCanonical
  phaseBusy := by simp
  legal := rfl
  causeFault := by simp
  infoFault := fun _ => rfl
  constantsOdd := hinv.constantsOdd
  recordCauses := hinv.recordCauses

theorem inv_issue (cmd : Word) : Inv (issue s cmd) where
  ibufCanonical := hinv.ibufCanonical
  phaseBusy := by simp
  legal := rfl
  causeFault := by simp
  infoFault := fun _ => rfl
  constantsOdd := hinv.constantsOdd
  recordCauses := hinv.recordCauses

theorem inv_doneClear : Inv (doneClear s) where
  ibufCanonical := hinv.ibufCanonical
  phaseBusy := hinv.phaseBusy
  legal := by
    obtain ⟨-, hbusyFault, -⟩ := statusLegal_iff.mp hinv.legal
    simpa [statusLegal_iff] using hbusyFault
  causeFault := hinv.causeFault
  infoFault := hinv.infoFault
  constantsOdd := hinv.constantsOdd
  recordCauses := hinv.recordCauses

theorem inv_faultExit : Inv (faultExit s) where
  ibufCanonical := hinv.ibufCanonical
  phaseBusy := hinv.phaseBusy
  legal := by
    obtain ⟨hbusyDone, -, -⟩ := statusLegal_iff.mp hinv.legal
    simpa [statusLegal_iff] using hbusyDone
  causeFault := by simp
  infoFault := fun _ => rfl
  constantsOdd := hinv.constantsOdd
  recordCauses := hinv.recordCauses

/-- A STATUS write is up to two of the clearings. -/
theorem inv_writeStatus (v : Word) : Inv (writeStatus s v) := by
  unfold writeStatus
  split_ifs
  · exact inv_faultExit (inv_doneClear hinv)
  · exact inv_doneClear hinv
  · exact inv_faultExit hinv
  · exact hinv

theorem inv_writeWindow (off : Nat) (v : Word) : Inv (writeWindow s off v) := by
  rcases writeWindow_cases s off v with h | ⟨-, h⟩ | h | ⟨len, ops, h⟩
  · rwa [h]
  · rw [h]; exact inv_issue hinv v
  · rw [h]; exact inv_writeStatus hinv v
  · rw [h]; exact hinv.of_fields_eq rfl rfl rfl rfl rfl rfl

theorem inv_placeBytes {off : Nat} {bytes : List Byte} (hfits : off + bytes.length ≤ lenLimit) :
    Inv { s with ibuf := placeBytes s.ibuf off bytes } :=
  { hinv with ibufCanonical := placeBytes_wf hinv.ibufCanonical hfits }

theorem inv_hostMove {t : State} (hmove : HostMove s t) : Inv t := by
  cases hmove with
  | hostOnly agent => exact hinv.of_fields_eq rfl rfl rfl rfl rfl rfl
  | window off v => exact inv_hostNext (inv_writeWindow hinv off v)
  | place off bytes hs hfits hq => exact inv_hostNext (inv_placeBytes hinv hfits)

/-- The end of a fault is recorded with its cause. -/
theorem inv_noteEnd_faultEntry {c : Cause} (hcause : c ≠ .noFault) (info : Word) :
    Inv (noteEnd (faultEntry s c info)) where
  ibufCanonical := hinv.ibufCanonical
  phaseBusy := by simp
  legal := rfl
  causeFault := by simpa using hcause
  infoFault := nofun
  constantsOdd := hinv.constantsOdd
  recordCauses := by simp [hinv.recordCauses, recordSound, hcause]

/-- A running block has no fault standing, so completing it leaves FAULT, CAUSE and FAULT_INFO clear. -/
theorem inv_noteEnd_complete (hrun : s.phase = .run) (lg : LongRegs) (r hi : Word) :
    Inv (noteEnd (complete { s with long := lg } r hi)) where
  ibufCanonical := hinv.ibufCanonical
  phaseBusy := by simp
  legal := by simp [statusLegal_iff, hinv.fault_of_run hrun]
  causeFault := hinv.causeFault
  infoFault := hinv.infoFault
  constantsOdd := hinv.constantsOdd
  recordCauses := by simp [hinv.recordCauses, recordSound]

end Updates

/-- Settles O46, by the moves a step can make. -/
theorem everyStepKeepsInvariant : Obligations.EveryStepKeepsInvariant := by
  intro s t hinv hstep
  have hturn := inv_takeTurn hinv
  cases step_cases hstep with
  | reset hplatform => exact inv_platformReset hturn
  | endOfOp u hblock hend =>
    rcases hend with ⟨c, info, hcause, rfl⟩ | ⟨lg, r, hi, rfl⟩
    · exact inv_noteEnd_faultEntry hturn hcause info
    · exact inv_noteEnd_complete hturn hblock.1 lg r hi
  | idleBlock hidle => exact hturn
  | host _ hhost hmove => exact inv_hostMove hturn hmove

end Sys2Proof.Machine
end

section
/-! What a host move keeps of the block, and the rules of the whole machine that follow (10_state.md R14, R23, R25;
43_dispatch_control.md R114; 60_exceptions.md R115, R122). -/

namespace Sys2Proof.Machine

/-! ### Host moves -/

/-- A write to the window never reaches K or LOOP_ADDR (R14, R23). -/
theorem writeWindow_config (s : State) (off : Nat) (v : Word) :
    (writeWindow s off v).rom = s.rom ∧ (writeWindow s off v).loopAddr = s.loopAddr := by
  rcases writeWindow_cases s off v with h | ⟨-, h⟩ | h | ⟨len, ops, h⟩
  · simp [h]
  · simp [h]
  · simp [h, writeStatus_eq]
  · simp [h]

theorem HostMove.config {s t : State} (h : HostMove s t) : t.rom = s.rom ∧ t.loopAddr = s.loopAddr := by
  cases h with
  | hostOnly agent => exact ⟨rfl, rfl⟩
  | window off v => exact writeWindow_config s off v
  | place off bytes hs hb hq => exact ⟨rfl, rfl⟩

/-- A write to the window raises no fault: an issue clears FAULT, and no other write sets it. -/
theorem writeWindow_fault (s : State) (off : Nat) (v : Word) (hclear : s.status.fault = false) :
    (writeWindow s off v).status.fault = false := by
  rcases writeWindow_cases s off v with h | ⟨-, h⟩ | h | ⟨len, ops, h⟩
  · rwa [h]
  · simp [h]
  · simp [h, writeStatus_eq, hclear]
  · rwa [h]

theorem HostMove.fault {s t : State} (h : HostMove s t) (hclear : s.status.fault = false) :
    t.status.fault = false := by
  cases h with
  | hostOnly agent => exact hclear
  | window off v => exact writeWindow_fault s off v hclear
  | place off bytes hs hb hq => exact hclear

/-- No placed byte below `limit` changes IBUF exactly when each reads already as placed (R38). -/
theorem changesBelow_eq_false_iff {m : Memory} {limit off : Nat} {bytes : List Byte} :
    changesBelow m limit off bytes = false ↔
      ∀ k b, bytes[k]? = some b → off + k < limit → Memory.read m (off + k) = b := by
  induction bytes generalizing off with
  | nil => simp [changesBelow]
  | cons byte rest ih =>
    have hhead : (decide (off < limit) && decide (Memory.read m off ≠ byte)) = false ↔
        (off < limit → Memory.read m off = byte) := by simp
    rw [changesBelow, Bool.or_eq_false_iff, hhead, ih]
    simp only [Nat.add_assoc, Nat.add_comm 1]
    constructor
    · rintro ⟨hzero, hsucc⟩ k b hk
      cases k with
      | zero => cases hk; exact hzero
      | succ k => exact hsucc k b hk
    · exact fun h => ⟨h 0 byte rfl, fun k b => h (k + 1) b⟩

/-- A placement that changes no byte below `limit` leaves them all as they read. -/
theorem read_placeBytes_of_not_changesBelow {m : Memory} {limit off a : Nat} {bytes : List Byte}
    (hm : Memory.wf m = true) (hfits : off + bytes.length ≤ lenLimit) (hkeep : changesBelow m limit off bytes = false)
    (ha : a < limit) : Memory.read (placeBytes m off bytes) a = Memory.read m a := by
  rw [read_placeBytes a hm hfits]
  split_ifs with hoff
  · cases hbyte : bytes[a - off]? with
    | none => rfl
    | some b =>
      have hplace : off + (a - off) = a := by omega
      have hread := changesBelow_eq_false_iff.mp hkeep (a - off) b hbyte (by omega)
      rw [hplace] at hread
      exact hread.symm
  · rfl

/-- A write to the window while BUSY = 1 issues nothing, so it keeps PHASE and every latched copy (R25, R111), and in no
state does it reach the turns or the record. -/
theorem writeWindow_of_busy {s : State} (off : Nat) (v : Word) (hbusy : s.status.busy = true) :
    (writeWindow s off v).phase = s.phase ∧ (writeWindow s off v).cmdQ = s.cmdQ ∧
      (writeWindow s off v).lenQ = s.lenQ ∧ (writeWindow s off v).opsQ = s.opsQ ∧
      (writeWindow s off v).turns = s.turns ∧ (writeWindow s off v).record = s.record := by
  rcases writeWindow_cases s off v with h | ⟨hidle, -⟩ | h | ⟨len, ops, h⟩
  · simp [h]
  · simp [hbusy] at hidle
  · simp [h, writeStatus_eq]
  · simp [h]

/-- What a host move keeps while BUSY = 1, apart from the input bytes. -/
theorem HostMove.keeps_of_busy {s t : State} (h : HostMove s t) (hbusy : s.status.busy = true) :
    t.phase = s.phase ∧ t.cmdQ = s.cmdQ ∧ t.lenQ = s.lenQ ∧ t.opsQ = s.opsQ ∧ t.turns = s.turns ∧
      t.record = s.record := by
  cases h with
  | hostOnly agent => exact ⟨rfl, rfl, rfl, rfl, rfl, rfl⟩
  | window off v => exact writeWindow_of_busy off v hbusy
  | place off bytes hs hb hq => exact ⟨rfl, rfl, rfl, rfl, rfl, rfl⟩

/-- While BUSY = 1 a host move keeps the bytes below L_q (R38). -/
theorem HostMove.input_of_busy {s t : State} (h : HostMove s t) (hm : Memory.wf s.ibuf = true)
    (hbusy : s.status.busy = true) {a : Nat} (ha : a < s.lenQ.toNat) : Memory.read t.ibuf a = Memory.read s.ibuf a := by
  cases h with
  | hostOnly agent => rfl
  | window off v => rw [hostNext_ibuf, writeWindow_ibuf]
  | place off bytes hs hfits hq =>
    have hkeep := hq.resolve_left (by simp [hbusy])
    exact read_placeBytes_of_not_changesBelow hm hfits hkeep ha

/-! ### The end of an operation -/

/-- The block's end changes neither K nor LOOP_ADDR. -/
theorem BlockEnds.config {s t : State} (h : BlockEnds s t) : t.rom = s.rom ∧ t.loopAddr = s.loopAddr := by
  rcases h with ⟨c, info, -, rfl⟩ | ⟨lg, r, hi, rfl⟩
  · exact ⟨rfl, rfl⟩
  · exact ⟨rfl, rfl⟩

/-- The block's end leaves PHASE idle, and keeps the latched copies and the record before it is noted. -/
theorem BlockEnds.keeps {s t : State} (h : BlockEnds s t) :
    t.phase = .idle ∧ t.cmdQ = s.cmdQ ∧ t.lenQ = s.lenQ ∧ t.opsQ = s.opsQ ∧ t.record = s.record := by
  rcases h with ⟨c, info, -, rfl⟩ | ⟨lg, r, hi, rfl⟩
  · exact ⟨rfl, rfl, rfl, rfl, rfl⟩
  · exact ⟨rfl, rfl, rfl, rfl, rfl⟩

/-! ### The rules of the whole machine -/

/-- Settles O49, by the moves a step can make. -/
theorem constantsAndConfigNeverChange : Obligations.ConstantsAndConfigNeverChange := by
  intro s t hstep
  cases step_cases hstep with
  | reset hplatform => exact ⟨rfl, rfl⟩
  | endOfOp u hblock hend => exact hend.config
  | idleBlock hidle => exact ⟨rfl, rfl⟩
  | host _ hhost hmove => exact hmove.config

/-- Settles O47, by the moves a step can make: of those only the block's fault entry sets FAULT. -/
theorem faultsAreRaisedOnlyInEndSteps : Obligations.FaultsAreRaisedOnlyInEndSteps := by
  intro s t hstep hclear hfault
  cases step_cases hstep with
  | reset hplatform => simp at hfault
  | endOfOp u hblock hend =>
    rcases hend with ⟨c, info, -, rfl⟩ | ⟨lg, r, hi, rfl⟩
    · exact ⟨hblock.1, hblock, rfl, rfl, rfl, rfl⟩
    · simp [hclear] at hfault
  | idleBlock hidle => simp [hclear] at hfault
  | host _ hhost hmove =>
    rw [hmove.fault hclear] at hfault
    cases hfault

/-- Settles O51, by the moves a step can make: BUSY = 1 keeps the host from an issue and from the input bytes. -/
theorem latchedOperandsStayWhileRunning : Obligations.LatchedOperandsStayWhileRunning := by
  intro s t hinv hstep hrun hplatform
  cases step_cases hstep with
  | reset h => exact absurd h hplatform
  | endOfOp u hblock hend =>
    obtain ⟨-, hcmd, hlen, hops, -⟩ := hend.keeps
    exact ⟨hcmd, hlen, hops, fun off _ => congrArg (Memory.read · off) hend.ibuf⟩
  | idleBlock hidle => simp [hidle] at hrun
  | host _ hhost hmove =>
    have hbusy : s.status.busy = true := hinv.phaseBusy.mp hrun
    obtain ⟨-, hcmd, hlen, hops, -, -⟩ := hmove.keeps_of_busy hbusy
    exact ⟨hcmd, hlen, hops, fun off => hmove.input_of_busy hinv.ibufCanonical hbusy⟩

/-! ### Every issued operation ends (R114) -/

/-- The first of k + 1 steps, when it answers a next state. -/
theorem runSteps_succ_of_next {s t : State} (h : step s = .next t) (k : Nat) :
    runSteps (k + 1) s = runSteps k t := by
  rw [runSteps, h]

/-- One step that the block moves ends the operation, with its end recorded. -/
theorem runSteps_one_of_blockMoves {s : State} (hblock : blockMoves s) :
    ∃ t, runSteps 1 s = .next t ∧ t.phase = .idle ∧
      ∃ o, t.record = s.record ++ [{ cmd := s.cmdQ, outcome := o }] := by
  obtain ⟨u, hstep, hend⟩ := endStep_ends (takeTurn s)
  obtain ⟨hphase, hcmd, -, -, hrecord⟩ := hend.keeps
  refine ⟨noteEnd u, ?_, hphase, endOutcome u, ?_⟩
  · rw [runSteps_succ_of_next ((step_of_blockMoves hblock).trans hstep), runSteps]
  · rw [noteEnd_record, hrecord, hcmd, takeTurn_record, takeTurn_cmdQ]

/-- A host's turn while the block runs keeps it running on the same command, and takes one turn. -/
theorem step_of_hostTurn_while_running {s t : State} (hbusy : s.status.busy = true) (hrun : s.phase = .run)
    (hhost : s.turns.head? = some .host) (hstep : step s = .next t) :
    t.phase = .run ∧ t.turns = s.turns.tail ∧ t.record = s.record ∧ t.cmdQ = s.cmdQ := by
  cases step_cases hstep with
  | reset h => simp [hhost] at h
  | endOfOp u hblock hend =>
    rcases hblock.2 with h | h <;> simp [h] at hhost
  | idleBlock hidle => simp [hidle] at hrun
  | host _ h hmove =>
    obtain ⟨hphase, hcmd, -, -, hturns, hrecord⟩ := hmove.keeps_of_busy hbusy
    exact ⟨hphase.trans hrun, hturns, hrecord, hcmd⟩

/-- Settles O52, by induction on the turns given: the block's or the platform's turn ends the operation, and a host's
turn leaves it running with one turn fewer, if it does not stop the run. -/
theorem issuedOperationEnds : Obligations.IssuedOperationEnds := by
  intro s hinv hrun
  generalize hturns : s.turns = turns
  induction turns generalizing s with
  | nil =>
    obtain ⟨t, hsteps, hidle, hrecord⟩ := runSteps_one_of_blockMoves ⟨hrun, .inl hturns⟩
    exact ⟨1, by simp, .inl ⟨t, hsteps, hidle, fun _ => hrecord⟩⟩
  | cons agent later ih =>
    have hhead : s.turns.head? = some agent := by rw [hturns]; rfl
    cases agent with
    | block =>
      obtain ⟨t, hsteps, hidle, hrecord⟩ := runSteps_one_of_blockMoves ⟨hrun, .inr hhead⟩
      exact ⟨1, by simp, .inl ⟨t, hsteps, hidle, fun _ => hrecord⟩⟩
    | platform =>
      refine ⟨1, by simp, .inl ⟨_, runSteps_succ_of_next (step_of_platformMoves hhead) 0, rfl, ?_⟩⟩
      simp
    | host =>
      cases hstep : step s with
      | fault r => exact ⟨1, by simp, .inr ⟨by simp, .inl ⟨r, by rw [runSteps, hstep]⟩⟩⟩
      | refused r => exact ⟨1, by simp, .inr ⟨by simp, .inr ⟨r, by rw [runSteps, hstep]⟩⟩⟩
      | next t =>
        obtain ⟨hrun', hturns', hrecord', hcmd'⟩ :=
          step_of_hostTurn_while_running (hinv.phaseBusy.mp hrun) hrun hhead hstep
        obtain ⟨k, hk, hends⟩ := ih t (everyStepKeepsInvariant s t hinv hstep) hrun' (by rw [hturns', hturns]; rfl)
        refine ⟨k + 1, by simpa using hk, ?_⟩
        rw [runSteps_succ_of_next hstep]
        rw [hrecord', hcmd'] at hends
        simpa using hends.imp_right And.right

end Sys2Proof.Machine
end

section
/-! Host writes to STATUS, LEN, OPA to OPF and the ignored offsets, and host reads of the window (10_state.md R15 to
R24, 20_memory.md R43, R47). -/

namespace Sys2Proof.Machine

/-! ### Writes -/

@[simp] theorem writeWindow_status (s : State) (v : Word) : writeWindow s 0x08 v = writeStatus s v := rfl

/-- Above CONFIG there is no register (R15, R24). -/
theorem regAt_of_reserved {off : Nat} (h : 0x68 ≤ off) : regAt off = none := by
  unfold regAt
  split
  case h_14 => rfl
  all_goals omega

/-- A write of 1 clears a flag and a write of 0 keeps it (R17). -/
theorem and_not_eq_ite (flag bit : Bool) : (flag && !bit) = if bit then false else flag := by
  cases bit <;> simp

/-- Settles O34: the write reaches STATUS, which is one update of DONE, FAULT, CAUSE and FAULT_INFO. -/
theorem statusWriteClearsByOnes : Obligations.StatusWriteClearsByOnes := by
  intro s hv v hvalue hmoves
  rw [step_of_write hvalue hmoves (by decide) (by decide), writeWindow_status, writeStatus_eq, and_not_eq_ite,
    and_not_eq_ite]
  rfl

/-- Settles O35: each of the seven offsets is its register's. -/
theorem operandWritesStore : Obligations.OperandWritesStore := by
  refine ⟨fun _ _ _ => ⟨rfl, rfl⟩, fun s hv v hvalue => ?_⟩
  have hstep {off : Nat} (haligned : off % 8 = 0) (hinside : off < 0x100) (h : hostMoves s (.write off 64 hv)) :=
    step_of_write hvalue h haligned hinside
  exact ⟨hstep rfl (by decide), hstep rfl (by decide), hstep rfl (by decide), hstep rfl (by decide),
    hstep rfl (by decide), hstep rfl (by decide), hstep rfl (by decide)⟩

/-- The window ignores a write to a read-only register or a reserved offset (R15, R24). -/
theorem writeWindow_of_readOnly (s : State) {off : Nat} (v : Word)
    (h : off = 0x18 ∨ off = 0x20 ∨ off = 0x28 ∨ off = 0x60 ∨ 0x68 ≤ off) : writeWindow s off v = s := by
  rcases h with rfl | rfl | rfl | rfl | h
  · rfl
  · rfl
  · rfl
  · rfl
  · rw [writeWindow, regAt_of_reserved h]

/-- Settles O36: the write is let through, and the window ignores it. -/
theorem readOnlyWritesAreIgnored : Obligations.ReadOnlyWritesAreIgnored := by
  intro s off hv v hvalue hmoves hoff
  rw [step_of_write hvalue hmoves (by omega) (by omega), writeWindow_of_readOnly _ _ (by omega), hostNext_takeTurn]

/-! ### Reads -/

/-- A variable just set holds what was put into it (R64). -/
theorem varValue_setVar_same (vars : List (HostVar × Word)) (x : HostVar) (w : Word) :
    varValue (setVar vars x w) x = some w := by
  induction vars with
  | nil => simp [setVar, varValue]
  | cons entry rest ih =>
    obtain ⟨y, v⟩ := entry
    by_cases hxy : x = y
    · simp [setVar, varValue, hxy]
    · simp [setVar, varValue, hxy, ih]

/-- When the host's next statement is an allowed read, the step puts what the window shows into its variable. -/
theorem step_of_read {s : State} {off : Nat} {x : HostVar} (hmoves : hostMoves s (.read off 64 x))
    (haligned : off % 8 = 0) (hinside : off < 0x100) : step s = .next (hostReadDone s x (readWindow s off)) := by
  simp only [step_of_hostMoves hmoves, hostStmt, windowAccess_of_allowed haligned hinside]
  rfl

/-- A reserved offset reads 0 (R24). -/
theorem readWindow_of_reserved (s : State) {off : Nat} (h : 0x68 ≤ off) : readWindow s off = 0 := by
  rw [readWindow, regAt_of_reserved h]

theorem configWord_eq (mode : LoopAddr) : configWord mode = if mode = .fixed then 0 else 1 := by
  cases mode <;> rfl

/-- Settles O37: one read of the window for each register's offset. -/
theorem registerReadsReturnValues : Obligations.RegisterReadsReturnValues := by
  intro s off x hmoves
  have hstep {w : Word} (haligned : off % 8 = 0) (hinside : off < 0x100) (hw : readWindow s off = w) :
      step s = .next (hostReadDone s x w) := hw ▸ step_of_read hmoves haligned hinside
  refine ⟨fun w => varValue_setVar_same _ x w, ?_, ?_, ?_, ?_, ?_, ?_, ?_, ?_, ?_, ?_, ?_, ?config,
    fun ⟨hlo, hhi, haligned⟩ => hstep haligned (by omega) (readWindow_of_reserved s hlo)⟩
  case config =>
    rintro rfl
    exact hstep (by decide) (by decide) (configWord_eq s.loopAddr)
  all_goals
    rintro rfl
    exact hstep (by decide) (by decide) rfl

/-! ### The bits of STATUS (R17) -/

/-- A flag is one bit of the word. -/
theorem getLsbD_flagBit (b : Bool) {n : Nat} (hn : n < 64) (i : Nat) :
    (flagBit b n).getLsbD i = (b && decide (n = i)) := by
  cases b with
  | false => simp [flagBit]
  | true =>
    rw [flagBit, if_pos rfl, show (1 : Word) <<< n = BitVec.twoPow 64 n from (BitVec.twoPow_eq 64 n).symm,
      BitVec.getLsbD_twoPow]
    simp [hn]

/-- Every bit of STATUS as the host reads it. -/
theorem getLsbD_statusWord (st : Status) {i : Nat} (hi : i < 64) :
    st.word.getLsbD i = (((st.busy && decide (0 = i)) || (st.done && decide (1 = i)) ||
      (st.fault && decide (2 = i))) || (!decide (i < 8) && st.cause.code.getLsbD (i - 8))) := by
  rw [Status.word, BitVec.getLsbD_or, BitVec.getLsbD_or, BitVec.getLsbD_or, getLsbD_flagBit _ (by decide),
    getLsbD_flagBit _ (by decide), getLsbD_flagBit _ (by decide), BitVec.getLsbD_shiftLeft, BitVec.getLsbD_setWidth]
  simp [hi, show i - 8 < 64 by omega]

/-- Above the three flags there is only the code of CAUSE, from bit 8. -/
theorem getLsbD_statusWord_of_ge (st : Status) {i : Nat} (hlo : 3 ≤ i) (hi : i < 64) :
    st.word.getLsbD i = (!decide (i < 8) && st.cause.code.getLsbD (i - 8)) := by
  rw [getLsbD_statusWord st hi]
  simp [show 0 ≠ i by omega, show 1 ≠ i by omega, show 2 ≠ i by omega]

theorem extractLsb'_cause_statusWord (st : Status) : st.word.extractLsb' 8 4 = st.cause.code := by
  refine BitVec.eq_of_getLsbD_eq fun i hi => ?_
  rw [BitVec.getLsbD_extractLsb', getLsbD_statusWord_of_ge st (by omega) (by omega)]
  simp [hi]

/-- Settles O38: the read shows STATUS, whose bits are those of its four fields. -/
theorem statusReadShowsFields : Obligations.StatusReadShowsFields := by
  intro s x hmoves
  refine ⟨s.status.word, step_of_read hmoves (by decide) (by decide), ?_, ?_, ?_, ?_, ?_, ?_⟩
  · rw [getLsbD_statusWord _ (by decide)]; simp
  · rw [getLsbD_statusWord _ (by decide)]; simp
  · rw [getLsbD_statusWord _ (by decide)]; simp
  · rw [extractLsb'_cause_statusWord]
    cases s.status.cause <;> rfl
  · refine BitVec.eq_of_getLsbD_eq fun i hi => ?_
    rw [BitVec.getLsbD_extractLsb', getLsbD_statusWord_of_ge _ (by omega) (by omega)]
    simp [show 3 + i < 8 by omega]
  · refine BitVec.eq_of_getLsbD_eq fun i hi => ?_
    rw [BitVec.getLsbD_extractLsb', getLsbD_statusWord_of_ge _ (by omega) (by omega),
      BitVec.getLsbD_of_ge _ (12 + i - 8) (by omega)]
    simp

end Sys2Proof.Machine
end

section
/-! Host accesses that stop, branches and jumps, and placements of IBUF bytes (20_memory.md R36, R38, R43; 10_state.md
R24; 30_encoding.md R64). -/

namespace Sys2Proof.Machine

/-! ### Accesses that are not let through (log 13, log 24) -/

/-- When the host's next statement is a read, or a write of a value, the step is that access of the window. -/
theorem step_of_access {s : State} {off width : Nat} {hv : HostValue} {v : Word} {x : HostVar} {st : HostStmt}
    (hst : (st = .write off width hv ∧ valueOf s.host.vars hv = some v) ∨ st = .read off width x)
    (hmoves : hostMoves s st) : ∃ go, step s = windowAccess off width go := by
  rw [step_of_hostMoves hmoves]
  rcases hst with ⟨rfl, hvalue⟩ | rfl
  · exact ⟨_, by simp only [hostStmt, takeTurn_host, hvalue]; rfl⟩
  · exact ⟨_, rfl⟩

/-- Settles O39: of the three checks of an access the width comes first, then the alignment. -/
theorem otherAccessesAreRefused : Obligations.OtherAccessesAreRefused := by
  intro s off width hv v x st hst hmoves
  obtain ⟨go, hstep⟩ := step_of_access hst hmoves
  rw [hstep, windowAccess]
  refine ⟨fun hwidth => if_pos hwidth, fun hwidth haligned => ?_⟩
  rw [if_neg (not_not.mpr hwidth), if_pos haligned]

/-- Settles O40: an access that passes the first two checks stops at the third. -/
theorem accessBeyondWindowStops : Obligations.AccessBeyondWindowStops := by
  intro s off hv v x st hst hmoves haligned houtside
  obtain ⟨go, hstep⟩ := step_of_access hst hmoves
  rw [hstep, windowAccess, if_neg (not_not.mpr rfl), if_neg (not_not.mpr haligned), if_pos houtside]

/-! ### Branches and jumps -/

/-- A condition holds as R64 says of the one variable it reads, if that variable is set. -/
theorem condHolds_eq (vars : List (HostVar × Word)) (c : HostCond) :
    condHolds vars c = (varValue vars (condVar c)).map (condOf c) := by
  cases c <;> rfl

/-- A jump goes to the first position that marks its label (log 9). -/
theorem hostGoto_of_marksFirst {s : State} {l : HostLabel} {p : Nat} (hmark : marksFirst s l p) :
    hostGoto s l = .next { s with host := { s.host with pos := p } } := by
  rw [hostGoto, labelPos_eq_some_iff.mpr hmark]

theorem hostGoto_of_unmarked {s : State} {l : HostLabel} (hnone : ∀ p : Nat, s.host.program[p]? ≠ some (.label l)) :
    hostGoto s l = .refused .hostLabelMissing := by
  rw [hostGoto, labelPos_eq_none_iff.mpr hnone]

/-- A branch whose condition is decided is a jump or goes on. -/
theorem hostStmt_ifGoto {s : State} {c : HostCond} {w : Word} (l : HostLabel)
    (hvar : varValue s.host.vars (condVar c) = some w) :
    hostStmt s (.ifGoto c l) = if condOf c w then hostGoto s l else .next (hostNext s) := by
  rw [hostStmt, condHolds_eq, hvar, Option.map_some]
  cases condOf c w <;> rfl

/-- Settles O41: the five forms of a condition are `condOf` of the variable's value. -/
theorem hostBranchFollowsCondition : Obligations.HostBranchFollowsCondition := by
  intro s c l p x w b hmoves hvar hmark hfirst hc
  have hcond : condVar c = x ∧ b = condOf c w := by
    rcases hc with ⟨rfl, rfl⟩ | ⟨rfl, rfl⟩ | ⟨rfl, rfl⟩ | ⟨code, rfl, rfl⟩ | ⟨v, rfl, rfl⟩ <;>
      exact ⟨rfl, rfl⟩
  obtain ⟨rfl, rfl⟩ := hcond
  have hmark' : marksFirst (takeTurn s) l p := ⟨hmark, hfirst⟩
  rw [step_of_hostMoves hmoves, hostStmt_ifGoto (s := takeTurn s) l hvar, hostGoto_of_marksFirst hmark']
  cases condOf c w <;> rfl

/-- Settles O53: the host jumps to the label's first mark, and passes over a label and a CHECK. -/
theorem hostGotoLabelAndCheckMove : Obligations.HostGotoLabelAndCheckMove := by
  refine fun s l p x v => ⟨fun hmoves hmark => ?_, step_of_hostMoves, step_of_hostMoves⟩
  have hmark' : marksFirst (takeTurn s) l p := hmark
  rw [step_of_hostMoves hmoves, hostStmt, hostGoto_of_marksFirst hmark']
  rfl

/-- Settles O54: an unset variable is refused before anything else, a missing label when the host goes to it. -/
theorem unsetVariableOrMissingLabelIsRefused : Obligations.UnsetVariableOrMissingLabelIsRefused := by
  intro s off width x c l w
  refine ⟨fun hunset hmoves => ?_, fun hunset hmoves => ?_, fun hnone => ?_⟩
  · simp only [step_of_hostMoves hmoves, hostStmt, takeTurn_host, valueOf, hunset]
  · simp only [step_of_hostMoves hmoves, hostStmt, takeTurn_host, condHolds_eq, hunset, Option.map_none]
  · have hgoto : hostGoto (takeTurn s) l = .refused .hostLabelMissing := hostGoto_of_unmarked hnone
    refine ⟨fun hmoves => (step_of_hostMoves hmoves).trans hgoto, fun hvar hholds hmoves => ?_⟩
    rw [step_of_hostMoves hmoves, hostStmt_ifGoto (s := takeTurn s) l hvar, if_pos hholds, hgoto]

/-! ### Placements -/

theorem hostPlace_of_beyond {s : State} {off : Nat} {bytes : List Byte} (h : lenLimit < off + bytes.length) :
    hostPlace s off bytes = .fault .outsideIbuf :=
  if_pos h

theorem hostPlace_of_frozen {s : State} {off : Nat} {bytes : List Byte} (hfits : off + bytes.length ≤ lenLimit)
    (hbusy : s.status.busy = true) (hchange : changesBelow s.ibuf s.lenQ.toNat off bytes = true) :
    hostPlace s off bytes = .refused .ibufChangedWhileBusy := by
  rw [hostPlace, if_neg (Nat.not_lt.mpr hfits), hbusy, hchange]
  rfl

theorem hostPlace_of_allowed {s : State} {off : Nat} {bytes : List Byte} (hfits : off + bytes.length ≤ lenLimit)
    (hallowed : s.status.busy = false ∨ changesBelow s.ibuf s.lenQ.toNat off bytes = false) :
    hostPlace s off bytes = .next { s with ibuf := placeBytes s.ibuf off bytes } := by
  rw [hostPlace, if_neg (Nat.not_lt.mpr hfits), Bool.and_eq_false_iff.mpr hallowed]
  rfl

/-- Settles O56: the end of the placement is looked at first (log 28). -/
theorem placementBeyondIbufStops : Obligations.PlacementBeyondIbufStops :=
  fun _ _ _ hmoves hbeyond => (step_of_hostMoves hmoves).trans (hostPlace_of_beyond hbeyond)

/-- Settles O42: the checks of a placement, and what IBUF reads after the bytes are placed. -/
theorem placingBytesRespectsFrozenInput : Obligations.PlacingBytesRespectsFrozenInput := by
  intro s off bytes hinv hmoves hfits
  have hstep : step s = hostPlace (hostMoved s) off bytes := step_of_hostMoves hmoves
  have hread (a : Nat) := read_placeBytes a hinv.ibufCanonical hfits
  rw [hstep]
  constructor
  · rintro hbusy ⟨k, b, hk, hlt, hne⟩
    refine hostPlace_of_frozen hfits hbusy (Bool.eq_true_of_not_eq_false fun hkeep => hne ?_)
    exact changesBelow_eq_false_iff.mp hkeep k b hk hlt
  · intro hallowed
    refine ⟨_, hostPlace_of_allowed hfits (hallowed.imp_right changesBelow_eq_false_iff.mpr),
      placeBytes_wf hinv.ibufCanonical hfits, fun k b hk => ?_, fun a ha => ?_⟩
    · rw [hostMoved, hread, if_pos (by omega), Nat.add_sub_cancel_left, hk, Option.getD_some]
    · rw [hostMoved, hread]
      split_ifs with hoff
      · rw [List.getElem?_eq_none (by omega), Option.getD_none]
      · rfl

end Sys2Proof.Machine
end

section
/-! The end step of a decoded command (43_dispatch_control.md R110), and HASH64, which is the routine of its bucket and
never faults below 2^63 (R106, R108; 60_exceptions.md R123). -/

namespace Sys2Proof.Machine

/-! ### The end step of a decoded command -/

/-- When the block moves and its word decodes, the step is `exec` of the command, with its end recorded. -/
theorem step_of_decode {s : State} {i : Instr} (hblock : blockMoves s) (hdecode : decode s.cmdQ = .command i) :
    ∃ t, exec i (takeTurn s) = .next t ∧ EndedAs (takeTurn s) t ∧ step s = .next (noteEnd t) := by
  obtain ⟨t, hexec, hends⟩ := exec_ends (takeTurn s) (decode_wellFormed hdecode)
  refine ⟨t, hexec, hends, ?_⟩
  simp only [step_of_blockMoves hblock, endStep, runCommand, takeTurn_cmdQ, hdecode, hexec]

/-- Settles O6: the record's entry is the outcome of the state the command ended in. -/
theorem stepRunsDecodedCommand : Obligations.StepRunsDecodedCommand := by
  intro s i hblock hdecode
  obtain ⟨t, hexec, -, hstep⟩ := step_of_decode hblock hdecode
  exact ⟨t, hexec, hstep⟩

/-! ### HASH64 is the routine of its bucket -/

/-- HASH64 over the latched length: the check of L, then the route of its length (R106). -/
theorem exec_hash64 (s : State) :
    exec .hash64 s = endOp s (firstRaised [lenCheck s]) fun s =>
      if s.lenQ.toNat ≤ 64 then
        afterDone s (hash64Value s.rom s.loopAddr s.ibuf s.lenQ.toNat) (routeWord s.lenQ.toNat)
      else completeLong s := rfl

theorem exec_hash64_of_le {s : State} (hL : s.lenQ.toNat ≤ 64) :
    exec .hash64 s = .next
      (afterDone s (hash64Value s.rom s.loopAddr s.ibuf s.lenQ.toNat) (routeWord s.lenQ.toNat)) := by
  rw [exec_hash64, endOp_lenChecked_of_lt (by omega), if_pos hL]

theorem exec_hash64_of_gt {s : State} (hL : 64 < s.lenQ.toNat) (hlen : s.lenQ.toNat < 2 ^ 63) :
    exec .hash64 s = .next (completeLong s) := by
  rw [exec_hash64, endOp_lenChecked_of_lt hlen, if_neg (by omega)]

/-- HASH_LONG over the latched length: the two checks, and the long route (R104). -/
theorem exec_hashLong (s : State) :
    exec .hashLong s =
      endOp s (firstRaised [lenCheck s, bucketCheck s (decide (64 < s.lenQ.toNat))]) completeLong := rfl

theorem exec_hashLong_of_gt {s : State} (hL : 64 < s.lenQ.toNat) (hlen : s.lenQ.toNat < 2 ^ 63) :
    exec .hashLong s = .next (completeLong s) := by
  rw [exec_hashLong, endOp_checkedBucket_of_inside hlen hL]

/-- The long route's completion, in the rules' words (R100, R110; log 22). -/
theorem completeLong_eq (s : State) :
    completeLong s = afterDone { s with long := longRun s.rom s.loopAddr s.ibuf s.lenQ.toNat }
      (longFinal s.rom (longRun s.rom s.loopAddr s.ibuf s.lenQ.toNat)) 6 := rfl

section Hash64Value

variable {K : Constants} {mode : LoopAddr} {m : Memory} {L : Nat}

theorem hash64Value_of_0to16 (hhi : L ≤ 16) : hash64Value K mode m L = hash0to16 K m L := if_pos hhi

theorem hash64Value_of_17to32 (hlo : 17 ≤ L) (hhi : L ≤ 32) : hash64Value K mode m L = hash17to32 K m L := by
  rw [hash64Value, if_neg (by omega), if_pos hhi]

theorem hash64Value_of_33to64 (hlo : 33 ≤ L) (hhi : L ≤ 64) : hash64Value K mode m L = hash33to64 K m L := by
  rw [hash64Value, if_neg (by omega), if_neg (by omega), if_pos hhi]

end Hash64Value

/-- Below 2^63 HASH64 completes, with the route code of its length (R106). -/
theorem exec_hash64_completes {s : State} (hlen : s.lenQ.toNat < 2 ^ 63) :
    ∃ lg r, exec .hash64 s = .next (afterDone { s with long := lg } r (routeWord s.lenQ.toNat)) ∧
      (s.lenQ.toNat ≤ 64 → lg = s.long) ∧ (s.lenQ.toNat = 0 → r = 0x9ae16a3b2f90404f) := by
  rcases Nat.lt_or_ge 64 s.lenQ.toNat with hL | hL
  · rw [exec_hash64_of_gt hL hlen, completeLong_eq, routeWord_of_ge_65 hL]
    exact ⟨_, _, rfl, fun h => by omega, fun h => by omega⟩
  · refine ⟨s.long, _, exec_hash64_of_le hL, fun _ => rfl, fun h => ?_⟩
    rw [h, hash64Value_of_0to16 (by decide), hash0to16_zero, Constants.k2]

/-- Settles O27: HASH64 and the routine of its bucket make the same checks and end alike, bucket by bucket. -/
theorem hash64DispatchesByLength : Obligations.Hash64DispatchesByLength := by
  refine ⟨encodedOnlyBy_of_decode (by decide) (by decide), ?_⟩
  rintro s L rfl
  refine ⟨fun hlen => ?_, fun hhi => ?_, fun ⟨hlo, hhi⟩ => ?_, fun ⟨hlo, hhi⟩ => ?_, fun ⟨hlo, hlen⟩ => ?_,
    fun hlen => ?_⟩
  · rw [exec_hash64, endOp_lenChecked_of_ge hlen]
  · rw [exec_hash64_of_le (by omega), exec_hash0to16, endOp_checkedBucket_of_inside (by omega) hhi,
      hash64Value_of_0to16 hhi]
  · rw [exec_hash64_of_le (by omega), exec_hash17to32, endOp_checkedBucket_of_inside (by omega) ⟨hlo, hhi⟩,
      hash64Value_of_17to32 hlo hhi, routeWord_of_17to32 hlo hhi]
  · rw [exec_hash64_of_le hhi, exec_hash33to64, endOp_checkedBucket_of_inside (by omega) ⟨hlo, hhi⟩,
      hash64Value_of_33to64 hlo hhi, routeWord_of_33to64 hlo hhi]
  · rw [exec_hash64_of_gt hlo hlen, exec_hashLong_of_gt hlo hlen]
  · obtain ⟨lg, r, hdone, hlong, hzero⟩ := exec_hash64_completes hlen
    exact ⟨lg, r, _, hdone, exec_classify_of_lt hlen rfl, hlong, hzero⟩

/-- Settles O8: below 2^63 HASH64 completes, which leaves the clear FAULT of a running block clear. -/
theorem hash64NeverFaults : Obligations.Hash64NeverFaults := by
  intro s hinv hblock hcmd hlen
  have hdecode : decode s.cmdQ = .command .hash64 := by rw [hcmd]; decide
  obtain ⟨t, hexec, -, hstep⟩ := step_of_decode hblock hdecode
  obtain ⟨lg, r, hdone, -, -⟩ := exec_hash64_completes (s := takeTurn s) hlen
  have hfault := hinv.fault_of_run hblock.1
  cases hexec.symm.trans hdone
  refine ⟨_, hstep, ?_, rfl⟩
  simp [afterDone, hfault, hinv.causeFault.mpr hfault]

end Sys2Proof.Machine
end

section
/-! Every command as its checks and its completion (43_dispatch_control.md R110), and what it leaves unchanged
(20_memory.md R37, 60_exceptions.md R119). -/

namespace Sys2Proof.Machine

/-! ### What a command completes with -/

/-- What a completed command writes: the working registers if it uses them, RESULT and RESULT_HI. -/
structure Completion where
  long : Option LongRegs
  result : Word
  resultHi : Word

/-- The state with a completion written (R110). -/
def Completion.write (c : Completion) (s : State) : State :=
  afterDone { s with long := c.long.getD s.long } c.result c.resultHi

/-- The completion of the long route over `L` bytes (R101; log 22). -/
def longCompletion (K : Constants) (mode : LoopAddr) (m : Memory) (L : Nat) : Completion where
  long := some (longRun K mode m L)
  result := hashLong K mode m L
  resultHi := 6

/-- What each command completes with when its checks raise nothing. -/
def completion (i : Instr) (s : State) : Completion :=
  match i with
  | .hash64 =>
    if s.lenQ.toNat ≤ 64 then
      ⟨none, hash64Value s.rom s.loopAddr s.ibuf s.lenQ.toNat, routeWord s.lenQ.toNat⟩
    else longCompletion s.rom s.loopAddr s.ibuf s.lenQ.toNat
  | .hash0to16 => ⟨none, hash0to16 s.rom s.ibuf s.lenQ.toNat, routeWord s.lenQ.toNat⟩
  | .hash17to32 => ⟨none, hash17to32 s.rom s.ibuf s.lenQ.toNat, 4⟩
  | .hash33to64 => ⟨none, hash33to64 s.rom s.ibuf s.lenQ.toNat, 5⟩
  | .hashLong => longCompletion s.rom s.loopAddr s.ibuf s.lenQ.toNat
  | .classify => ⟨none, routeWord s.lenQ.toNat, 0⟩
  | .rd8 => ⟨none, rd8 s.ibuf s.opsQ.opa.toNat, 0⟩
  | .rd32 => ⟨none, rd32 s.ibuf s.opsQ.opa.toNat, 0⟩
  | .rd64 => ⟨none, rd64 s.ibuf s.opsQ.opa.toNat, 0⟩
  | .rotr shamt => ⟨none, rotr s.opsQ.opa shamt, 0⟩
  | .shiftmix => ⟨none, shiftMix s.opsQ.opa, 0⟩
  | .combine => ⟨none, combine s.rom s.opsQ.opa s.opsQ.opb, 0⟩
  | .weakhash =>
    let p := weakHash s.opsQ.opa s.opsQ.opb s.opsQ.opc s.opsQ.opd s.opsQ.ope s.opsQ.opf
    ⟨none, p.1, p.2⟩
  | .weakhashWin =>
    let p := weakHashWindow s.ibuf s.opsQ.opa.toNat s.opsQ.opb s.opsQ.opc
    ⟨none, p.1, p.2⟩

/-- A well-formed command makes its checks, and completes as `completion` says if they raise nothing. -/
theorem exec_eq_endOp {i : Instr} (s : State) (hi : i.wellFormed = true) :
    exec i s = endOp s (firstRaised (operandChecks i s)) fun s => (completion i s).write s := by
  cases i with
  | rotr shamt => exact if_pos (of_decide_eq_true hi)
  | hash64 =>
    rw [exec_hash64]
    congr 1
    funext s
    by_cases hL : s.lenQ.toNat ≤ 64
    · simp only [completion, if_pos hL]
      rfl
    · simp only [completion, if_neg hL]
      rfl
  | hash0to16 | hash17to32 | hash33to64 | hashLong | classify | rd8 | rd32 | rd64 | shiftmix | combine | weakhash
  | weakhashWin => rfl

/-! ### What every command leaves unchanged -/

/-- The one ill-formed term, a rotation by 64 or more, answers no next state. -/
theorem wellFormed_of_exec_next {i : Instr} {s t : State} (h : exec i s = .next t) : i.wellFormed = true := by
  cases i with
  | rotr shamt =>
    refine decide_eq_true (Nat.not_lt.mp fun hk => ?_)
    cases (rotationBeyondFieldIsRefused s shamt hk).1.symm.trans h
  | hash64 | hash0to16 | hash17to32 | hash33to64 | hashLong | classify | rd8 | rd32 | rd64 | shiftmix | combine
  | weakhash | weakhashWin => rfl

/-- Only HASH64 and HASH_LONG complete with working registers, and only with L above 64 (R27, R28; log 22). -/
theorem completion_long_eq_none {i : Instr} {s : State} (hraised : firstRaised (operandChecks i s) = none)
    (hshort : (i ≠ .hash64 ∧ i ≠ .hashLong) ∨ s.lenQ.toNat ≤ 64) : (completion i s).long = none := by
  cases i with
  | hash64 =>
    have hL : s.lenQ.toNat ≤ 64 := hshort.resolve_left fun hne => hne.1 rfl
    rw [completion, if_pos hL]
  | hashLong =>
    have hL : s.lenQ.toNat ≤ 64 := hshort.resolve_left fun hne => hne.2 rfl
    simp [operandChecks, lenCheck_of_lt (s := s) (by omega), Nat.not_lt.mpr hL] at hraised
  | hash0to16 | hash17to32 | hash33to64 | classify | rd8 | rd32 | rd64 | rotr shamt | shiftmix | combine | weakhash
  | weakhashWin => rfl

/-- Otherwise the working registers are as before, whether the command faulted or completed. -/
theorem exec_keeps_long {i : Instr} {s t : State} (h : exec i s = .next t)
    (hshort : (i ≠ .hash64 ∧ i ≠ .hashLong) ∨ s.lenQ.toNat ≤ 64) : t.long = s.long := by
  rw [exec_eq_endOp s (wellFormed_of_exec_next h)] at h
  cases hraised : firstRaised (operandChecks i s) with
  | some r =>
    rw [hraised] at h
    cases h
    rfl
  | none =>
    rw [hraised] at h
    cases h
    simp only [Completion.write, afterDone, completion_long_eq_none hraised hshort, Option.getD_none]

/-- Settles O30, for each of the two ends of a command. -/
theorem execFrame : Obligations.ExecFrame := by
  intro i s t h
  have hlong := exec_keeps_long h
  rcases exec_cases h with ⟨c, info, -, rfl⟩ | ⟨lg, r, hi, rfl⟩
  · simp
  · simpa using hlong

end Sys2Proof.Machine
end

section
/-! The long route by its trace (42_weak_hash_long.md R95 to R103): the initialisation and the loop body with every
intermediate word named, and which bytes of IBUF they read. -/

namespace Sys2Proof.Machine

/-! ### The trace of the working registers -/

/-- The initialisation, with its words named (R95). -/
theorem longInit_eq {K : Constants} {m : Memory} {L : Nat} {y0 z0 : Word} {v w : Word × Word} (hL : 64 ≤ L)
    (hy0 : y0 = rd64 m (L - 16) ^^^ K.k1) (hz0 : z0 = (rd64 m (L - 56) ^^^ K.k0) + shiftMix v.2 * K.k1)
    (hv : v = weakHash (rd64 m (L - 64)) (rd64 m (L - 56)) (rd64 m (L - 48)) (rd64 m (L - 40)) (BitVec.ofNat 64 L) y0)
    (hw : w = weakHash (rd64 m (L - 32)) (rd64 m (L - 24)) (rd64 m (L - 16)) (rd64 m (L - 8))
      (BitVec.ofNat 64 L * K.k1) K.k0) :
    longInit K m L =
      { x := rotr (z0 + rd64 m 0) 39 * K.k1, y := rotr y0 33 * K.k1, z := z0, v0 := v.1, v1 := v.2
        w0 := w.1, w1 := w.2, iter := BitVec.ofNat 64 ((L - 1) / 64), idx := 0 } := by
  have hwindows : L - 64 + 8 = L - 56 ∧ L - 64 + 16 = L - 48 ∧ L - 64 + 24 = L - 40 ∧ L - 32 + 8 = L - 24 ∧
      L - 32 + 16 = L - 16 ∧ L - 32 + 24 = L - 8 := by omega
  obtain ⟨h56, h48, h40, h24, h16, h8⟩ := hwindows
  subst hz0 hw hv hy0
  rw [longInit, weakHashWindow, weakHashWindow, h56, h48, h40, h24, h16, h8, lenWord]

/-- One iteration, with its words named (R98, R99). -/
theorem longIteration_eq {K : Constants} {mode : LoopAddr} {m : Memory} {r : LongRegs} {bs : Nat} {x y z : Word}
    {nv nw : Word × Word} (hbs : bs = loopBase mode r.idx.toNat)
    (hx : x = (rotr (r.x + r.y + r.v0 + rd64 m (bs + 16)) 37 * K.k1) ^^^ r.w1)
    (hy : y = (rotr (r.y + r.v1 + rd64 m (bs + 48)) 42 * K.k1) ^^^ r.v0) (hz : z = rotr (r.z ^^^ r.w0) 33)
    (hnv : nv = weakHash (rd64 m bs) (rd64 m (bs + 8)) (rd64 m (bs + 16)) (rd64 m (bs + 24)) (r.v1 * K.k1) (x + r.w0))
    (hnw : nw = weakHash (rd64 m (bs + 32)) (rd64 m (bs + 40)) (rd64 m (bs + 48)) (rd64 m (bs + 56)) (z + r.w1) y) :
    longIteration K mode m r =
      { x := z, y := y, z := x, v0 := nv.1, v1 := nv.2, w0 := nw.1, w1 := nw.2, iter := r.iter - 1
        idx := r.idx + 1 } := by
  subst hbs hnv hnw hx hy hz
  rfl

/-- After i iterations IDX is i (R99). -/
theorem idx_longAfter (K : Constants) (mode : LoopAddr) (m : Memory) (L i : Nat) :
    (longAfter K mode m (longInit K m L) i).idx = BitVec.ofNat 64 i := by
  rw [(longAfter_counters K mode m _ i).2, longInit_idx]
  exact BitVec.zero_add _

/-- So the next iteration is at the base of i (R97). -/
theorem loopBase_longAfter (K : Constants) (mode : LoopAddr) (m : Memory) (L : Nat) {i : Nat} (hi : i < 2 ^ 64) :
    loopBase mode (longAfter K mode m (longInit K m L) i).idx.toNat = loopBase mode i := by
  rw [idx_longAfter, BitVec.toNat_ofNat, Nat.mod_eq_of_lt hi]

/-- After all the iterations ITER is 0 (R96, R99). -/
theorem iter_longAfter (K : Constants) (mode : LoopAddr) (m : Memory) (L : Nat) :
    (longAfter K mode m (longInit K m L) ((L - 1) / 64)).iter = 0 := by
  rw [(longAfter_counters K mode m _ _).1, longInit_iter]
  exact BitVec.sub_self _

theorem loopBase_eq (mode : LoopAddr) (i : Nat) : loopBase mode i = if mode = .fixed then 0 else 64 * i := by
  cases mode <;> rfl

/-- The long route's completion with the registers of the trace's end, for L above 64 (R100, R104). -/
theorem exec_hashLong_of_trace {s : State} (hL : 64 < s.lenQ.toNat) (hlen : s.lenQ.toNat < 2 ^ 63) {r : LongRegs}
    (hr : longAfter s.rom s.loopAddr s.ibuf (longInit s.rom s.ibuf s.lenQ.toNat) ((s.lenQ.toNat - 1) / 64) = r) :
    exec .hashLong s = .next (afterDone { s with long := r } (longFinal s.rom r) 6) := by
  rw [exec_hashLong_of_gt hL hlen, completeLong_eq, longRun_eq _ _ _ _ hlen, hr]

/-- Settles O26: the trace is `longAfter` of the initialisation. -/
theorem hashLongRunsItsIterations : Obligations.HashLongRunsItsIterations := by
  refine ⟨encodedOnlyBy_of_decode (by decide) (by decide), ?_⟩
  rintro s L n m K rfl rfl rfl rfl
  refine ⟨fun hlen => ?_, fun hshort => ?_, fun hL hlen => ?_⟩
  · rw [exec_hashLong, endOp_checkedBucket_of_ge hlen]
  · rw [exec_hashLong, endOp_checkedBucket_of_outside (by omega) (by omega)]
  · refine ⟨longAfter s.rom s.loopAddr s.ibuf (longInit s.rom s.ibuf s.lenQ.toNat), ?_, fun i hi => ?_,
      iter_longAfter .., idx_longAfter .., exec_hashLong_of_trace hL hlen rfl⟩
    · exact ⟨_, _, _, _, rfl, rfl, rfl, rfl, longInit_eq (by omega) rfl rfl rfl rfl⟩
    · have hbase := loopBase_longAfter s.rom s.loopAddr s.ibuf s.lenQ.toNat (i := i) (by omega)
      rw [loopBase_eq s.loopAddr i] at hbase
      exact ⟨_, _, _, _, _, _, rfl, rfl, rfl, rfl, rfl, rfl, longIteration_eq hbase.symm rfl rfl rfl rfl rfl⟩

/-! ### Property 1 of R103: one iteration is at base 0 in both modes -/

theorem longRun_fixed_eq_advancing (K : Constants) (m : Memory) {L : Nat} (hlo : 65 ≤ L) (hhi : L ≤ 128) :
    longRun K .fixed m L = longRun K .advancing m L := by
  have hone : (L - 1) / 64 = 1 := by omega
  have hbase (mode : LoopAddr) : loopBase mode (longInit K m L).idx.toNat = 0 := by cases mode <;> rfl
  rw [longRun_eq _ _ _ _ (by omega), longRun_eq _ _ _ _ (by omega), hone]
  simp only [longAfter, longIteration, hbase]

/-- Settles O28: up to 128 bytes the long route is the same under both modes. -/
theorem loopModesAgreeForOneIteration : Obligations.LoopModesAgreeForOneIteration := by
  intro s hlo hhi
  have hlen : s.lenQ.toNat < 2 ^ 63 := by omega
  have hexec (mode : LoopAddr) : exec .hashLong { s with loopAddr := mode } =
      .next (afterDone { s with loopAddr := mode, long := longRun s.rom mode s.ibuf s.lenQ.toNat }
        (longFinal s.rom (longRun s.rom mode s.ibuf s.lenQ.toNat)) 6) :=
    exec_hashLong_of_gt (s := { s with loopAddr := mode }) hlo hlen
  refine ⟨_, _, hexec .fixed, ?_⟩
  rw [longRun_fixed_eq_advancing s.rom s.ibuf hlo hhi]
  exact hexec .advancing

/-! ### Which bytes the long route reads -/

/-- Two buffers agree on the n bytes from `lo`. -/
def AgreeOn (m m' : Memory) (lo n : Nat) : Prop := ∀ a, lo ≤ a → a < lo + n → Memory.read m a = Memory.read m' a

section Agreement

variable {m m' : Memory} {lo n off : Nat}

/-- A read inside the range where two buffers agree is the same in both. -/
theorem AgreeOn.memRead {k : Nat} (h : AgreeOn m m' lo n) (hlo : lo ≤ off) (hhi : off + k ≤ lo + n) :
    memRead m off k = memRead m' off k :=
  memRead_congr fun a hfrom hto => h a (by omega) (by omega)

theorem AgreeOn.rd64 (h : AgreeOn m m' lo n) (hlo : lo ≤ off) (hhi : off + 8 ≤ lo + n) :
    rd64 m off = rd64 m' off := h.memRead hlo hhi

theorem AgreeOn.mono {lo' n' : Nat} (h : AgreeOn m m' lo n) (hlo : lo ≤ lo') (hhi : lo' + n' ≤ lo + n) :
    AgreeOn m m' lo' n' := fun a hfrom hto => h a (by omega) (by omega)

/-- A window reads its 32 bytes alone (R92). -/
theorem AgreeOn.weakHashWindow (h : AgreeOn m m' lo n) (hlo : lo ≤ off) (hhi : off + 32 ≤ lo + n) (seedA seedB : Word) :
    weakHashWindow m off seedA seedB = weakHashWindow m' off seedA seedB := by
  unfold Machine.weakHashWindow
  rw [h.rd64 hlo (by omega), h.rd64 (off := off + 8) (by omega) (by omega),
    h.rd64 (off := off + 16) (by omega) (by omega), h.rd64 (off := off + 24) (by omega) (by omega)]

/-- The initialisation reads the first 8 and the last 64 bytes (R95). -/
theorem longInit_congr {L : Nat} (hL : 64 ≤ L) (hfirst : AgreeOn m m' 0 64) (hlast : AgreeOn m m' (L - 64) 64)
    (K : Constants) : longInit K m L = longInit K m' L := by
  unfold longInit
  rw [hfirst.rd64 (off := 0) (by omega) (by omega), hlast.rd64 (off := L - 16) (by omega) (by omega),
    hlast.rd64 (off := L - 56) (by omega) (by omega)]
  simp only [hlast.weakHashWindow (off := L - 64) (by omega) (by omega),
    hlast.weakHashWindow (off := L - 32) (by omega) (by omega)]

/-- An iteration reads the 64 bytes from its base (R98). -/
theorem longIteration_congr {mode : LoopAddr} {r : LongRegs} (h : AgreeOn m m' (loopBase mode r.idx.toNat) 64)
    (K : Constants) : longIteration K mode m r = longIteration K mode m' r := by
  unfold longIteration longBody
  generalize loopBase mode r.idx.toNat = bs at h
  rw [h.rd64 (off := bs + 16) (by omega) (by omega), h.rd64 (off := bs + 48) (by omega) (by omega)]
  simp only [h.weakHashWindow (off := bs + 0) (by omega) (by omega),
    h.weakHashWindow (off := bs + 32) (by omega) (by omega)]

/-- The long route reads the first 64, the last 64 and the bytes of each iteration alone. -/
theorem longRun_congr {mode : LoopAddr} {L : Nat} (hL : 64 ≤ L) (hlen : L < 2 ^ 63) (hfirst : AgreeOn m m' 0 64)
    (hlast : AgreeOn m m' (L - 64) 64) (hloop : ∀ i, i < (L - 1) / 64 → AgreeOn m m' (loopBase mode i) 64)
    (K : Constants) : longRun K mode m L = longRun K mode m' L := by
  have htrace (k : Nat) (hk : k ≤ (L - 1) / 64) :
      longAfter K mode m (longInit K m L) k = longAfter K mode m' (longInit K m' L) k := by
    induction k with
    | zero => exact longInit_congr hL hfirst hlast K
    | succ k ih =>
      rw [longAfter, longAfter, ih (by omega)]
      refine longIteration_congr ?_ K
      rw [loopBase_longAfter K mode m' L (by omega)]
      exact hloop k (by omega)
  rw [longRun_eq K mode m L hlen, longRun_eq K mode m' L hlen]
  exact htrace _ le_rfl

end Agreement

/-- Settles O29, property 2 of R103: with FIXED every iteration is at base 0. -/
theorem fixedLongRouteIgnoresMiddle : Obligations.FixedLongRouteIgnoresMiddle := by
  intro s t hmode hmode' hrom hlenQ hL hlen hfirst hlast
  have hagree : AgreeOn s.ibuf t.ibuf 0 64 := fun a _ ha => hfirst a (by omega)
  have hrun : longRun s.rom .fixed s.ibuf s.lenQ.toNat = longRun s.rom .fixed t.ibuf s.lenQ.toNat :=
    longRun_congr (mode := .fixed) (by omega) hlen hagree (fun a hlo hhi => hlast a hlo (by omega)) (fun _ _ => hagree)
      s.rom
  refine ⟨_, _, exec_hash64_of_gt hL hlen, ?_⟩
  rw [exec_hash64_of_gt (hlenQ ▸ hL) (hlenQ ▸ hlen), completeLong_eq, ← hlenQ, ← hrom, hmode', hmode, ← hrun]
  rfl

end Sys2Proof.Machine
end

section
/-! What an operation's answer depends on (00_scope.md R11, 10_state.md R35): its checks read the latched length and
offset, and its completion the input bytes, K, LOOP_ADDR and the latched operands. -/

namespace Sys2Proof.Machine

/-! ### The bucket values over the bytes below L -/

section BucketValues

variable {m m' : Memory} {L : Nat} (h : AgreeOn m m' 0 L) (K : Constants)
include h

theorem hash1to3_congr (hlo : 1 ≤ L) (hhi : L ≤ 3) : hash1to3 K m L = hash1to3 K m' L := by
  rw [hash1to3_eq hhi, hash1to3_eq hhi, h 0 (by omega) (by omega), h (L / 2) (by omega) (by omega),
    h (L - 1) (by omega) (by omega)]

theorem hash4to8_congr (hlo : 4 ≤ L) : hash4to8 K m L = hash4to8 K m' L := by
  have hrd32 {off : Nat} (hoff : off + 4 ≤ L) : rd32 m off = rd32 m' off := h.memRead (by omega) (by omega)
  simp (disch := omega) only [hash4to8, hrd32]

theorem hash9to16_congr (hlo : 9 ≤ L) : hash9to16 K m L = hash9to16 K m' L := by
  have hrd64 {off : Nat} (hoff : off + 8 ≤ L) : rd64 m off = rd64 m' off := h.rd64 (by omega) (by omega)
  simp (disch := omega) only [hash9to16, hrd64]

theorem hash0to16_congr : hash0to16 K m L = hash0to16 K m' L := by
  rcases Nat.lt_or_ge 8 L with hL | hL
  · rw [hash0to16_of_ge_9 hL, hash0to16_of_ge_9 hL, hash9to16_congr h K hL]
  rcases Nat.lt_or_ge 3 L with hL' | hL'
  · rw [hash0to16_of_4to8 hL' hL, hash0to16_of_4to8 hL' hL, hash4to8_congr h K hL']
  rcases Nat.eq_zero_or_pos L with rfl | hpos
  · rw [hash0to16_zero, hash0to16_zero]
  · rw [hash0to16_of_1to3 hpos hL', hash0to16_of_1to3 hpos hL', hash1to3_congr h K hpos hL']

theorem hash17to32_congr (hlo : 17 ≤ L) : hash17to32 K m L = hash17to32 K m' L := by
  have hrd64 {off : Nat} (hoff : off + 8 ≤ L) : rd64 m off = rd64 m' off := h.rd64 (by omega) (by omega)
  simp (disch := omega) only [hash17to32, hrd64]

theorem hash33to64_congr (hlo : 33 ≤ L) : hash33to64 K m L = hash33to64 K m' L := by
  have hrd64 {off : Nat} (hoff : off + 8 ≤ L) : rd64 m off = rd64 m' off := h.rd64 (by omega) (by omega)
  simp (disch := omega) only [hash33to64, frontTriple, backTriple, hrd64]

/-- The bytes of iteration i lie below L in both modes, for i below floor((L - 1) / 64) (R102). -/
theorem longCompletion_congr (hlo : 65 ≤ L) (hlen : L < 2 ^ 63) (mode : LoopAddr) :
    longCompletion K mode m L = longCompletion K mode m' L := by
  have hloop (i : Nat) (hi : i < (L - 1) / 64) : AgreeOn m m' (loopBase mode i) 64 := by
    refine h.mono (by omega) ?_
    rw [loopBase_eq]
    split_ifs <;> omega
  have hrun := longRun_congr (by omega) hlen (h.mono le_rfl (by omega)) (h.mono (by omega) (by omega)) hloop K
  rw [longCompletion, longCompletion, hashLong, hashLong, hrun]

theorem hash64Value_congr (hhi : L ≤ 64) (mode : LoopAddr) : hash64Value K mode m L = hash64Value K mode m' L := by
  rcases Nat.lt_or_ge 32 L with hL | hL
  · rw [hash64Value_of_33to64 hL hhi, hash64Value_of_33to64 hL hhi, hash33to64_congr h K hL]
  rcases Nat.lt_or_ge 16 L with hL' | hL'
  · rw [hash64Value_of_17to32 hL' hL, hash64Value_of_17to32 hL' hL, hash17to32_congr h K hL']
  · rw [hash64Value_of_0to16 hL', hash64Value_of_0to16 hL', hash0to16_congr h K]

end BucketValues

/-! ### Commands over the same input -/

/-- The commands whose answer does not depend on the latched operands: the five hash operations and CLASSIFY. -/
def operandFree (i : Instr) : Prop := i ∈ [.hash64, .hash0to16, .hash17to32, .hash33to64, .hashLong, .classify]

section SameInput

variable {s t : State} {i : Instr} (hsame : SameInput s t) (hops : s.opsQ = t.opsQ ∨ operandFree i)
include hsame

theorem lenCheck_congr : lenCheck s = lenCheck t := by
  rw [lenCheck, lenCheck, inputLen, inputLen, hsame.lenQ]

theorem bucketCheck_congr (inBucket : Bool) : bucketCheck s inBucket = bucketCheck t inBucket := by
  rw [bucketCheck, bucketCheck, hsame.lenQ]

theorem readCheck_congr (hops : s.opsQ = t.opsQ) (n : Nat) : readCheck s n = readCheck t n := by
  rw [readCheck, readCheck, inputLen, inputLen, readOffset, readOffset, hsame.lenQ, hops]

include hops

/-- Over the same input the checks raise the same. -/
theorem operandChecks_congr : operandChecks i s = operandChecks i t := by
  have hlen := lenCheck_congr hsame
  have hbucket := bucketCheck_congr hsame
  rcases hops with hops | hfree
  · cases i <;> simp only [operandChecks, hlen, hbucket, readCheck_congr hsame hops, hsame.lenQ]
  · simp only [operandFree, List.mem_cons, List.not_mem_nil, or_false] at hfree
    rcases hfree with rfl | rfl | rfl | rfl | rfl | rfl <;> simp only [operandChecks, hlen, hbucket, hsame.lenQ]

end SameInput

/-! ### What holds when no check raises -/

section NothingRaised

variable {s : State}

theorem firstRaised_cons_eq_none_iff {o : Option Raised} {rest : List (Option Raised)} :
    firstRaised (o :: rest) = none ↔ o = none ∧ firstRaised rest = none := by
  cases o <;> simp

theorem lenCheck_eq_none_iff : lenCheck s = none ↔ s.lenQ.toNat < 2 ^ 63 := by
  refine ⟨fun h => Nat.lt_of_not_le fun hge => ?_, lenCheck_of_lt⟩
  rw [lenCheck_of_ge hge] at h
  cases h

theorem bucketCheck_eq_none_iff {inBucket : Bool} : bucketCheck s inBucket = none ↔ inBucket = true := by
  cases inBucket <;> simp

theorem readCheck_eq_none_iff {n : Nat} : readCheck s n = none ↔ s.opsQ.opa.toNat + n ≤ s.lenQ.toNat := by
  refine ⟨fun h => Nat.le_of_not_lt fun hoob => ?_, readCheck_of_le⟩
  rw [readCheck_of_lt hoob] at h
  cases h

/-- A routine run alone completes only inside its bucket. -/
theorem bucket_of_nothingRaised {p : Prop} [Decidable p]
    (h : firstRaised [lenCheck s, bucketCheck s (decide p)] = none) : s.lenQ.toNat < 2 ^ 63 ∧ p := by
  rw [firstRaised_cons_eq_none_iff, firstRaised_cons_eq_none_iff, lenCheck_eq_none_iff, bucketCheck_eq_none_iff,
    decide_eq_true_iff] at h
  exact ⟨h.1, h.2.1⟩

/-- A read completes only inside the input. -/
theorem fits_of_nothingRaised {n : Nat} (h : firstRaised [lenCheck s, readCheck s n] = none) :
    s.opsQ.opa.toNat + n ≤ s.lenQ.toNat := by
  rw [firstRaised_cons_eq_none_iff, firstRaised_cons_eq_none_iff, readCheck_eq_none_iff] at h
  exact h.2.1

end NothingRaised

/-- Over the same input a command that raises nothing completes with the same. -/
theorem completion_congr {s t : State} {i : Instr} (hsame : SameInput s t) (hops : s.opsQ = t.opsQ ∨ operandFree i)
    (hraised : firstRaised (operandChecks i s) = none) : completion i s = completion i t := by
  obtain ⟨hlenQ, hrom, hmode, hbytes⟩ := hsame
  have hagree : AgreeOn s.ibuf t.ibuf 0 s.lenQ.toNat := fun a _ ha => hbytes a (by omega)
  have hsameOps (hi : ¬ operandFree i) : s.opsQ = t.opsQ := hops.resolve_right hi
  cases i with
  | hash64 =>
    have hlen : s.lenQ.toNat < 2 ^ 63 := lenCheck_eq_none_iff.mp (firstRaised_cons_eq_none_iff.mp hraised).1
    simp only [completion, ← hlenQ, ← hrom, ← hmode]
    split_ifs with hL
    · rw [hash64Value_congr hagree s.rom hL]
    · exact longCompletion_congr hagree s.rom (by omega) hlen s.loopAddr
  | hash0to16 => simp only [completion, ← hlenQ, ← hrom, hash0to16_congr hagree]
  | hash17to32 =>
    obtain ⟨-, hlo, -⟩ := bucket_of_nothingRaised hraised
    simp only [completion, ← hlenQ, ← hrom, hash17to32_congr hagree _ hlo]
  | hash33to64 =>
    obtain ⟨-, hlo, -⟩ := bucket_of_nothingRaised hraised
    simp only [completion, ← hlenQ, ← hrom, hash33to64_congr hagree _ hlo]
  | hashLong =>
    obtain ⟨hlen, hL⟩ := bucket_of_nothingRaised hraised
    simp only [completion, ← hlenQ, ← hrom, ← hmode, longCompletion_congr hagree _ hL hlen]
  | classify => simp only [completion, ← hlenQ]
  | rd8 =>
    have hfits := fits_of_nothingRaised hraised
    rw [completion, completion, ← hsameOps (by simp [operandFree]), rd8, rd8, hagree.memRead (by omega) (by omega)]
  | rd32 =>
    have hfits := fits_of_nothingRaised hraised
    rw [completion, completion, ← hsameOps (by simp [operandFree]), rd32, rd32, hagree.memRead (by omega) (by omega)]
  | rd64 =>
    have hfits := fits_of_nothingRaised hraised
    rw [completion, completion, ← hsameOps (by simp [operandFree]), hagree.rd64 (by omega) (by omega)]
  | weakhashWin =>
    have hfits := fits_of_nothingRaised hraised
    rw [completion, completion, ← hsameOps (by simp [operandFree]), hagree.weakHashWindow (by omega) (by omega)]
  | rotr shamt | shiftmix | combine | weakhash =>
    simp only [completion, ← hsameOps (by simp [operandFree]), ← hrom]

/-- Settles O31: over the same input a command raises the same, and if it raises nothing completes with the same. -/
theorem operationDependsOnlyOnItsInput : Obligations.OperationDependsOnlyOnItsInput := by
  intro i s t hi hsame hops
  have hchecks := operandChecks_congr hsame hops
  rw [exec_eq_endOp s hi, exec_eq_endOp t hi, ← hchecks]
  cases hraised : firstRaised (operandChecks i s) with
  | some r => exact .inl ⟨r.cause, r.info, rfl, rfl⟩
  | none =>
    refine .inr ⟨(completion i s).long, (completion i s).result, (completion i s).resultHi, rfl, ?_⟩
    rw [completion_congr hsame hops hraised]
    rfl

end Sys2Proof.Machine
end

section
/-! The expansion of the pseudo-statements (30_encoding.md R65). -/

namespace Sys2Proof.Machine

/-- The expansion of lines is line by line, each with the label of its place. -/
theorem expandLines_eq_flatten (lines : List HostLine) (l n : Nat) :
    expandLines (l + n) lines = ((lines.zipIdx n).map fun p => expandLine (l + p.2) p.1).flatten := by
  induction lines generalizing n with
  | nil => rfl
  | cons line rest ih =>
    rw [expandLines, Nat.add_assoc, ih, List.zipIdx_cons, List.map_cons, List.flatten_cons]

/-- Settles O55: the label of line k is the first fresh one plus k. -/
theorem pseudoStatementsExpandWithFreshLabels : Obligations.PseudoStatementsExpandWithFreshLabels := by
  intro lines
  refine ⟨fun k => freshLabel lines + k, fun j k => Nat.add_left_cancel, fun k l c hnamed => ?_, ?_⟩
  · have hlt : l < freshLabel lines := by
      rcases hnamed with h | h | h <;> exact labelOf_lt_freshLabel h rfl
    exact Nat.ne_of_gt (Nat.lt_add_right k hlt)
  · rw [expandProgram, ← Nat.add_zero (freshLabel lines), expandLines_eq_flatten]
    refine congrArg List.flatten (List.map_congr_left fun ⟨line, k⟩ _ => ?_)
    cases line <;> rfl

end Sys2Proof.Machine
end
